-- ==== Sys2Proof/Word.lean ====
section
/-! DEFINITION. The plain data the block handles: 8-bit values, line levels, and the 32-slot frame. -/

namespace Sys2Proof

/-- An 8-bit value: a frame field, a command operand at its port, or one byte of an encoded operation. -/
abbrev Byte := BitVec 8

/-- The 32 slots of a frame, slot 0 first (10_state.md R18, 00_scope.md R12). -/
abbrev Frame := Vector Bool 32

/-- The level of a line; a mark is `low`, a space and an idle line are `high` (30_encoding.md R48). -/
inductive Level where
  | low
  | high
  deriving DecidableEq, Repr

/-- The other level: `toggle()` of the output pin (10_state.md R26). -/
def Level.flip : Level → Level
  | .low => .high
  | .high => .low

end Sys2Proof
end

