-- ==== Sys2Proof/Config.lean ====
section
/-! DEFINITION. The fixed timing constants (00_scope.md R6) and the platform's parameters (R7). -/

namespace Sys2Proof.Config

/-! The constants of 00_scope.md R6, durations in microseconds. -/

def tLeadLow : Nat := 9000
def tLeadHigh : Nat := 4500
def tMark : Nat := 560
def tSpace0 : Nat := 560
def tSpace1 : Nat := 1680
def tol : Nat := 500
def tWdt : Nat := 100000
def frameBits : Nat := 32
def fieldBits : Nat := 8
def fieldMask : Nat := 0xFF

/-- The largest transmit offset any 32 slots can need (45_transmit_encoder.md R99): 85 740. -/
def maxOffset : Nat := tLeadLow + tLeadHigh + 33 * tMark + 32 * tSpace1

/-- The parameters of 00_scope.md R7. None has a value in the source; they do not change during a run
(70_reset_and_hazards.md R146), and every statement about the model is for all of them. -/
structure Params where
  clockBits : Nat
  hasInput : Bool
  hasOutput : Bool
  queueDepth : Nat
  wdtLatencyMax : Nat
  txLatencyMax : Nat
  deriving DecidableEq, Repr

/-- The constraints of 00_scope.md R7 on the parameters. -/
abbrev Params.Ok (p : Params) : Prop :=
  17 ≤ p.clockBits ∧ 1 ≤ p.queueDepth ∧
    tWdt + p.wdtLatencyMax < 2 ^ p.clockBits ∧ maxOffset + p.txLatencyMax < 2 ^ p.clockBits

/-- The parameters the programs of 95_test_vectors.md are written for. DESIGN CHOICE (log 1): the model's
reset state carries them; the spec fixes none. -/
def Params.ofTestVectors : Params where
  clockBits := 32
  hasInput := true
  hasOutput := true
  queueDepth := 64
  wdtLatencyMax := 0
  txLatencyMax := 0

end Sys2Proof.Config
end

