-- ==== Sys2Proof/Machine/Codec.lean ====
section
/-! DEFINITION. The bit codec (42_bit_codec.md) and the views of a frame as a list of slots, as four fields and
as one 32-bit number. -/

namespace Sys2Proof.Machine

/-- `bits_to_int` (R79): a fold over any finite sequence, most significant bit first. -/
def bitsToInt (seq : List Bool) : Nat :=
  seq.foldl (fun acc b => acc * 2 + b.toNat) 0

/-- The low `n` bits of `v`, lowest first: the extraction loop of R80. -/
def lowBits : Nat → Nat → List Bool
  | _, 0 => []
  | v, n + 1 => decide (v &&& 1 = 1) :: lowBits (v >>> 1) n

/-- `int_to_bits` (R80): exactly `length` bits, most significant first; high bits of `value` are lost. -/
def intToBits (value length : Nat) : List Bool := (lowBits value length).reverse

/-- The frame whose slot `i` is element `i` of a list of 32 bits. -/
def frameOfBits (bits : List Bool) : Frame := Vector.ofFn fun i => bits.getD i.val false

/-- All 32 slots `false` (10_state.md R18). -/
def clearFrame : Frame := Vector.replicate 32 false

/-- The eight slots of field `k`, `k` = 0 user, 1 user-complement, 2 data, 3 data-complement (30_encoding.md R47). -/
def fieldBits (f : Frame) (k : Nat) : List Bool := (f.toList.drop (8 * k)).take 8

/-- The 8-bit value of field `k` (30_encoding.md R53). -/
def field (f : Frame) (k : Nat) : Byte := BitVec.ofNat 8 (bitsToInt (fieldBits f k))

/-- The 32 slots that carry four field values, first slot first (20_memory.md R39). -/
def fieldsToBits (user userC data dataC : Byte) : List Bool :=
  intToBits user.toNat 8 ++ intToBits userC.toNat 8 ++ intToBits data.toNat 8 ++ intToBits dataC.toNat 8

/-- The frame that carries four field values. -/
def frameOfFields (user userC data dataC : Byte) : Frame := frameOfBits (fieldsToBits user userC data dataC)

/-- The frame written as one 32-bit number `F`, slot `i` being bit `31 - i` (00_scope.md R12). -/
def frameOfNumber (n : Nat) : Frame := frameOfBits (intToBits n 32)

end Sys2Proof.Machine
end

