-- ==== Sys2Proof/Syntax.lean ====
section
/-! DEFINITION. The operations (one constructor of `Instr` per row of spec/opcode_table.json), the events of the
script notation, and the items a script holds. -/

namespace Sys2Proof

/-- One constructor per row of the opcode table. A time `t` is the global time in microseconds
(30_encoding.md R58). Natural operands are wider than the ports, so that a call the block refuses can be
written (46_controller_facade.md R110). -/
inductive Instr where
  /-- power-on reset, R144 -/
  | reset
  /-- `start_receive()`, R108 -/
  | startReceive
  /-- `stop_receive()`, R109 -/
  | stopReceive
  /-- `send(user, data)` at time `t`, R101 and R110 -/
  | send (t user data : Nat)
  /-- R67 -/
  | edgeLeadfall (t : Nat) (lvl : Level)
  /-- R68 -/
  | edgeLeadrise (t : Nat) (lvl : Level)
  /-- R69 -/
  | edgeBitfallFirst (t : Nat) (lvl : Level)
  /-- R71 -/
  | edgeBitfallNext (t : Nat) (lvl : Level)
  /-- R70 -/
  | edgeBitriseMark (t : Nat) (lvl : Level)
  /-- R72 -/
  | edgeBitriseTerm (t : Nat) (lvl : Level)
  /-- the one-shot timer fires at time `t`, R91 -/
  | wdtExpire (t : Nat)
  /-- R115 -/
  | dqRunValidate
  /-- R116 -/
  | dqRunDiag
  /-- R102 -/
  | txToggle (t : Nat)
  /-- R103; `t` only places it in time -/
  | txRelease (t : Nat)
  /-- R79 -/
  | bitsToInt (seq : List Bool)
  /-- R80 -/
  | intToBits (value length : Nat)
  /-- R84 -/
  | validateFrame (f : Frame)
  /-- R100 -/
  | txSchedule (user data : Nat)
  /-- R61 -/
  | within (d nominal : Nat)
  /-- a frame on the receive line, opened at time `t0`: R47 with the waveform of R50 -/
  | frame (t0 : Nat) (user userC data dataC : Byte)
  deriving DecidableEq, Repr

/-- Who takes a step (00_scope.md R9). -/
inductive Agent where
  | line
  | edgeIrq
  | wdtTimer
  | deferred
  | host
  | txEngine
  deriving DecidableEq, Repr

/-- Where an operation runs (60_exceptions.md R133). -/
inductive Domain where
  | interrupt
  | deferred
  | caller
  deriving DecidableEq, Repr

/-- The domain of an agent; the line is outside the block. -/
def Agent.domain : Agent → Option Domain
  | .line => none
  | .edgeIrq | .wdtTimer => some .interrupt
  | .deferred => some .deferred
  | .host | .txEngine => some .caller

/-- The agent whose step an operation is (00_scope.md R9); a pure function is no agent's step, it is called inside
one. -/
def Instr.agent : Instr → Option Agent
  | .reset | .startReceive | .stopReceive | .send _ _ _ => some .host
  | .edgeLeadfall _ _ | .edgeLeadrise _ _ | .edgeBitfallFirst _ _ => some .edgeIrq
  | .edgeBitfallNext _ _ | .edgeBitriseMark _ _ | .edgeBitriseTerm _ _ => some .edgeIrq
  | .wdtExpire _ => some .wdtTimer
  | .dqRunValidate | .dqRunDiag => some .deferred
  | .txToggle _ | .txRelease _ => some .txEngine
  | .bitsToInt _ | .intToBits _ _ | .validateFrame _ | .txSchedule _ _ | .within _ _ => none
  | .frame _ _ _ _ _ => some .line

/-- The execution domain of an operation, if it runs in the block (60_exceptions.md R133). -/
def Instr.domain (i : Instr) : Option Domain := i.agent.bind Agent.domain

/-- The 20 rows of the opcode table that have a dispatch key: 15 operations and 5 pure functions. -/
inductive Op where
  | reset | startReceive | stopReceive | send
  | edgeLeadfall | edgeLeadrise | edgeBitfallFirst | edgeBitfallNext | edgeBitriseMark | edgeBitriseTerm
  | wdtExpire | dqRunValidate | dqRunDiag | txToggle | txRelease
  | bitsToInt | intToBits | validateFrame | txSchedule | within
  deriving DecidableEq, Repr

/-- The row's name as spec/opcode_table.json spells it. -/
def Instr.mnemonic : Instr → String
  | .reset => "RESET"
  | .startReceive => "START_RECEIVE"
  | .stopReceive => "STOP_RECEIVE"
  | .send _ _ _ => "SEND"
  | .edgeLeadfall _ _ => "EDGE.LEADFALL"
  | .edgeLeadrise _ _ => "EDGE.LEADRISE"
  | .edgeBitfallFirst _ _ => "EDGE.BITFALL.FIRST"
  | .edgeBitfallNext _ _ => "EDGE.BITFALL.NEXT"
  | .edgeBitriseMark _ _ => "EDGE.BITRISE.MARK"
  | .edgeBitriseTerm _ _ => "EDGE.BITRISE.TERM"
  | .wdtExpire _ => "WDT.EXPIRE"
  | .dqRunValidate => "DQ.RUN.VALIDATE"
  | .dqRunDiag => "DQ.RUN.DIAG"
  | .txToggle _ => "TX.TOGGLE"
  | .txRelease _ => "TX.RELEASE"
  | .bitsToInt _ => "BITS_TO_INT"
  | .intToBits _ _ => "INT_TO_BITS"
  | .validateFrame _ => "VALIDATE_FRAME"
  | .txSchedule _ _ => "TX_SCHEDULE"
  | .within _ _ => "WITHIN"
  | .frame _ _ _ _ _ => "FRAME"

/-- The time an operation happens at, where its script line carries one (30_encoding.md R58). -/
def Instr.time : Instr → Option Nat
  | .reset | .startReceive | .stopReceive | .dqRunValidate | .dqRunDiag => none
  | .send t _ _ | .edgeLeadfall t _ | .edgeLeadrise t _ | .edgeBitfallFirst t _ | .edgeBitfallNext t _ => some t
  | .edgeBitriseMark t _ | .edgeBitriseTerm t _ | .wdtExpire t | .txToggle t | .txRelease t => some t
  | .bitsToInt _ | .intToBits _ _ | .validateFrame _ | .txSchedule _ _ | .within _ _ => none
  | .frame t0 _ _ _ _ => some t0

/-- One line of an event script (30_encoding.md R58). Which operation an `edge` or a `run` selects depends on
the state (R56). -/
inductive Event where
  /-- `RESET` -/
  | reset
  /-- `START` -/
  | start
  /-- `STOP` -/
  | stop
  /-- `SEND t u d` -/
  | send (t user data : Nat)
  /-- `EDGE t L` or `EDGE t H`: the time and the level the handler reads (41_receive_state_machine.md R63) -/
  | edge (t : Nat) (lvl : Level)
  /-- `WDT t` -/
  | wdt (t : Nat)
  /-- `RUN` -/
  | run
  /-- `TXT t` -/
  | txt (t : Nat)
  /-- `TXR t` -/
  | txr (t : Nat)
  deriving DecidableEq, Repr

/-- The time a script line carries, if any. -/
def Event.time : Event → Option Nat
  | .reset | .start | .stop | .run => none
  | .send t _ _ | .edge t _ | .wdt t | .txt t | .txr t => some t

/-- The two things that take the place of an instruction encoding (30_encoding.md, introduction): the dispatch
key, and the wire format of a frame. -/
inductive Format where
  | key
  | wire
  deriving DecidableEq, Repr

/-- Why a word encodes no operation. -/
inductive DecodeError where
  /-- the bytes end inside the operation -/
  | truncated
  /-- no row of the opcode table has this dispatch key -/
  | noSuchKey (key : Byte)
  /-- a level operand that is neither 0 (`Low`) nor 1 (`High`) -/
  | badLevel (b : Byte)
  /-- an element of a bit sequence that is neither 2 (`0`), 3 (`1`) nor 0 (the end) -/
  | badBit (b : Byte)
  deriving DecidableEq, Repr

/-- What a script holds: an event of R58, or one encoded operation (log 3, log 4). -/
inductive Item where
  | event (e : Event)
  | word (fmt : Format) (bytes : List Byte)
  deriving DecidableEq, Repr

end Sys2Proof
end

