-- ==== Sys2Proof/WellFormed.lean ====
section
/-! DEFINITION. The checks an operation passes before it has an encoded form: the operand widths of log 4. -/

namespace Sys2Proof

/-- A natural operand fits its eight operand bytes (log 4). -/
abbrev fitsOperand (n : Nat) : Prop := n < 2 ^ 64

/-- A command operand fits its 8-bit port (46_controller_facade.md R110 item 3). -/
abbrev fitsPort (n : Nat) : Prop := n < 2 ^ 8

/-- Well-formed: every operand fits the width its encoding gives it. The pure functions take any natural up to
the operand width, values above 255 among them (45_transmit_encoder.md R100). -/
abbrev Instr.WellFormed : Instr → Prop
  | .reset | .startReceive | .stopReceive | .dqRunValidate | .dqRunDiag => True
  | .send t user data => fitsOperand t ∧ fitsPort user ∧ fitsPort data
  | .edgeLeadfall t _ | .edgeLeadrise t _ | .edgeBitfallFirst t _ => fitsOperand t
  | .edgeBitfallNext t _ | .edgeBitriseMark t _ | .edgeBitriseTerm t _ => fitsOperand t
  | .wdtExpire t | .txToggle t | .txRelease t => fitsOperand t
  | .bitsToInt _ | .validateFrame _ => True
  | .intToBits value length => fitsOperand value ∧ fitsOperand length
  | .txSchedule user data => fitsOperand user ∧ fitsOperand data
  | .within d nominal => fitsOperand d ∧ fitsOperand nominal
  | .frame t0 _ _ _ _ => fitsOperand t0

end Sys2Proof
end

