-- ==== Sys2Proof/Decode.lean ====
section
/-! DEFINITION. The dispatch keys of spec/opcode_table.json and 30_encoding.md R56, the decoder, total on any
bytes, and the encoder. The spec gives an operation its key and no form for its operands: the operand bytes that
follow the key are the model's (log 4). -/

namespace Sys2Proof

open Sys2Proof.Machine

/-! ## The dispatch keys -/

/-- The key `cccc xxxx` of each row (30_encoding.md R56). -/
def Op.key : Op → Byte
  | .reset => 0x00
  | .startReceive => 0x10
  | .stopReceive => 0x20
  | .send => 0x30
  | .edgeLeadfall => 0x40
  | .edgeLeadrise => 0x42
  | .edgeBitfallFirst => 0x44
  | .edgeBitfallNext => 0x46
  | .edgeBitriseMark => 0x48
  | .edgeBitriseTerm => 0x49
  | .wdtExpire => 0x50
  | .dqRunValidate => 0x60
  | .dqRunDiag => 0x61
  | .txToggle => 0x70
  | .txRelease => 0x80
  | .bitsToInt => 0xF0
  | .intToBits => 0xF1
  | .validateFrame => 0xF2
  | .txSchedule => 0xF3
  | .within => 0xF4

/-- Every keyed row, in the table's order. -/
def Op.all : List Op :=
  [.reset, .startReceive, .stopReceive, .send, .edgeLeadfall, .edgeLeadrise, .edgeBitfallFirst,
    .edgeBitfallNext, .edgeBitriseMark, .edgeBitriseTerm, .wdtExpire, .dqRunValidate, .dqRunDiag, .txToggle,
    .txRelease, .bitsToInt, .intToBits, .validateFrame, .txSchedule, .within]

/-- The row a key belongs to, if any; every other key is rejected by name. -/
def opOfKey (k : Byte) : Option Op := Op.all.find? fun o => o.key == k

/-! ## Operand bytes (log 4) -/

/-- The `count` low bytes of `n`, lowest first. -/
def natBytes : Nat → Nat → List Byte
  | 0, _ => []
  | count + 1, n => BitVec.ofNat 8 n :: natBytes count (n / 256)

/-- The number whose bytes these are, lowest first. -/
def leNat : List Byte → Nat
  | [] => 0
  | b :: bs => b.toNat + 256 * leNat bs

/-- What reading one operand answers: its value and the bytes after it. -/
abbrev Taken (α : Type) := Except DecodeError (α × List Byte)

/-- A natural operand: eight bytes, lowest first. -/
def takeNat (bs : List Byte) : Taken Nat :=
  if bs.length < 8 then .error .truncated else .ok (leNat (bs.take 8), bs.drop 8)

/-- An 8-bit operand. -/
def takeByte : List Byte → Taken Byte
  | [] => .error .truncated
  | b :: bs => .ok (b, bs)

/-- A level operand: 0 is `Low`, 1 is `High`, anything else is rejected. -/
def takeLevel : List Byte → Taken Level
  | [] => .error .truncated
  | b :: bs => if b = 0 then .ok (.low, bs) else if b = 1 then .ok (.high, bs) else .error (.badLevel b)

/-- A bit sequence of any length: 2 stands for a `0`, 3 for a `1`, 0 ends it. -/
def takeBits : List Byte → Taken (List Bool)
  | [] => .error .truncated
  | b :: bs =>
    if b = 0 then .ok ([], bs)
    else if b = 2 then (takeBits bs).map fun p => (false :: p.1, p.2)
    else if b = 3 then (takeBits bs).map fun p => (true :: p.1, p.2)
    else .error (.badBit b)

/-- Two operands, one after the other. -/
def takeBoth {α β : Type} (first : List Byte → Taken α) (second : List Byte → Taken β) (bs : List Byte) :
    Taken (α × β) :=
  match first bs with
  | .error e => .error e
  | .ok (a, rest) =>
    match second rest with
    | .error e => .error e
    | .ok (b, rest) => .ok ((a, b), rest)

/-- A frame operand: its four fields in slot order. -/
def takeFields : List Byte → Taken (Byte × Byte × Byte × Byte) :=
  takeBoth takeByte (takeBoth takeByte (takeBoth takeByte takeByte))

/-- Time, then level: the operands of an EDGE operation. -/
def takeTimeLevel : List Byte → Taken (Nat × Level) := takeBoth takeNat takeLevel

/-- Two natural operands. -/
def takeNat2 : List Byte → Taken (Nat × Nat) := takeBoth takeNat takeNat

/-- Time and the two 8-bit command operands of SEND. -/
def takeSend : List Byte → Taken (Nat × Byte × Byte) := takeBoth takeNat (takeBoth takeByte takeByte)

/-! ## The decoder -/

/-- The operation of a keyed row with the operands that follow its key. -/
def decodeOperands (o : Op) (bs : List Byte) : Taken Instr :=
  match o with
  | .reset => .ok (.reset, bs)
  | .startReceive => .ok (.startReceive, bs)
  | .stopReceive => .ok (.stopReceive, bs)
  | .send => (takeSend bs).map fun p => (.send p.1.1 p.1.2.1.toNat p.1.2.2.toNat, p.2)
  | .edgeLeadfall => (takeTimeLevel bs).map fun p => (.edgeLeadfall p.1.1 p.1.2, p.2)
  | .edgeLeadrise => (takeTimeLevel bs).map fun p => (.edgeLeadrise p.1.1 p.1.2, p.2)
  | .edgeBitfallFirst => (takeTimeLevel bs).map fun p => (.edgeBitfallFirst p.1.1 p.1.2, p.2)
  | .edgeBitfallNext => (takeTimeLevel bs).map fun p => (.edgeBitfallNext p.1.1 p.1.2, p.2)
  | .edgeBitriseMark => (takeTimeLevel bs).map fun p => (.edgeBitriseMark p.1.1 p.1.2, p.2)
  | .edgeBitriseTerm => (takeTimeLevel bs).map fun p => (.edgeBitriseTerm p.1.1 p.1.2, p.2)
  | .wdtExpire => (takeNat bs).map fun p => (.wdtExpire p.1, p.2)
  | .dqRunValidate => .ok (.dqRunValidate, bs)
  | .dqRunDiag => .ok (.dqRunDiag, bs)
  | .txToggle => (takeNat bs).map fun p => (.txToggle p.1, p.2)
  | .txRelease => (takeNat bs).map fun p => (.txRelease p.1, p.2)
  | .bitsToInt => (takeBits bs).map fun p => (.bitsToInt p.1, p.2)
  | .intToBits => (takeNat2 bs).map fun p => (.intToBits p.1.1 p.1.2, p.2)
  | .validateFrame =>
    (takeFields bs).map fun p => (.validateFrame (frameOfFields p.1.1 p.1.2.1 p.1.2.2.1 p.1.2.2.2), p.2)
  | .txSchedule => (takeNat2 bs).map fun p => (.txSchedule p.1.1 p.1.2, p.2)
  | .within => (takeNat2 bs).map fun p => (.within p.1.1 p.1.2, p.2)

/-- Key format: the dispatch key, then its operands. -/
def decodeKey : List Byte → Taken Instr
  | [] => .error .truncated
  | k :: bs =>
    match opOfKey k with
    | some o => decodeOperands o bs
    | none => .error (.noSuchKey k)

/-- Wire format: the 32 slots of the frame in slot order (`uuuuuuuuUUUUUUUUddddddddDDDDDDDD`, 30_encoding.md
R47), then the time its opening edge falls. Every content of the 32 slots is a frame (R54). -/
def decodeWire (bs : List Byte) : Taken Instr :=
  (takeBoth takeFields takeNat bs).map fun p => (.frame p.1.2 p.1.1.1 p.1.1.2.1 p.1.1.2.2.1 p.1.1.2.2.2, p.2)

/-- The decoder: the operation the bytes begin with and the bytes after it, or the name of what is wrong. -/
def decode (fmt : Format) (bs : List Byte) : Taken Instr :=
  match fmt with
  | .key => decodeKey bs
  | .wire => decodeWire bs

/-! ## The encoder -/

/-- Which of the two encodings an operation has. -/
def Instr.format : Instr → Format
  | .frame _ _ _ _ _ => .wire
  | _ => .key

/-- A level operand's byte. -/
def levelByte : Level → Byte
  | .low => 0
  | .high => 1

/-- A bit sequence's bytes. -/
def bitBytes (seq : List Bool) : List Byte := seq.map (fun b => if b then 3 else 2) ++ [0]

/-- A frame operand's bytes. -/
def frameBytes (f : Frame) : List Byte := [field f 0, field f 1, field f 2, field f 3]

/-- The bytes of an operation in its format. -/
def encode : Instr → List Byte
  | .reset => [Op.reset.key]
  | .startReceive => [Op.startReceive.key]
  | .stopReceive => [Op.stopReceive.key]
  | .send t user data => Op.send.key :: natBytes 8 t ++ [BitVec.ofNat 8 user, BitVec.ofNat 8 data]
  | .edgeLeadfall t lvl => Op.edgeLeadfall.key :: natBytes 8 t ++ [levelByte lvl]
  | .edgeLeadrise t lvl => Op.edgeLeadrise.key :: natBytes 8 t ++ [levelByte lvl]
  | .edgeBitfallFirst t lvl => Op.edgeBitfallFirst.key :: natBytes 8 t ++ [levelByte lvl]
  | .edgeBitfallNext t lvl => Op.edgeBitfallNext.key :: natBytes 8 t ++ [levelByte lvl]
  | .edgeBitriseMark t lvl => Op.edgeBitriseMark.key :: natBytes 8 t ++ [levelByte lvl]
  | .edgeBitriseTerm t lvl => Op.edgeBitriseTerm.key :: natBytes 8 t ++ [levelByte lvl]
  | .wdtExpire t => Op.wdtExpire.key :: natBytes 8 t
  | .dqRunValidate => [Op.dqRunValidate.key]
  | .dqRunDiag => [Op.dqRunDiag.key]
  | .txToggle t => Op.txToggle.key :: natBytes 8 t
  | .txRelease t => Op.txRelease.key :: natBytes 8 t
  | .bitsToInt seq => Op.bitsToInt.key :: bitBytes seq
  | .intToBits value length => Op.intToBits.key :: natBytes 8 value ++ natBytes 8 length
  | .validateFrame f => Op.validateFrame.key :: frameBytes f
  | .txSchedule user data => Op.txSchedule.key :: natBytes 8 user ++ natBytes 8 data
  | .within d nominal => Op.within.key :: natBytes 8 d ++ natBytes 8 nominal
  | .frame t0 user userC data dataC => [user, userC, data, dataC] ++ natBytes 8 t0

/-! ## Words of the opcode table -/

/-- The format and the bytes of a table word of `nbits` bits: a 32-bit word is a frame, whose first slot is
its top bit (00_scope.md R12), so its bytes are laid out top byte first; any other is a dispatch key. Every operand
byte the table gives no bits is 0. -/
def tableBytes (nbits w : Nat) : Format × List Byte :=
  if nbits = 32 then (.wire, (natBytes 4 w).reverse ++ List.replicate 8 0)
  else (.key, natBytes (nbits / 8) w ++ List.replicate 24 0)

/-- The operation the decoder reads from a table word. -/
def decodeTableWord (nbits w : Nat) : Option Instr :=
  match decode (tableBytes nbits w).1 (tableBytes nbits w).2 with
  | .ok p => some p.1
  | .error _ => none

end Sys2Proof
end

