-- ==== Sys2Proof/Machine/Schedule.lean ====
section
/-! DEFINITION. The schedule of a transmission (45_transmit_encoder.md R96 to R100) and the durations of a frame on the
wire (30_encoding.md R49, R50). -/

namespace Sys2Proof.Machine

/-- The 32 slots to send (R96). -/
def txBits (user data : Nat) : List Bool :=
  intToBits user 8 ++ intToBits (user ^^^ Config.fieldMask) 8 ++ intToBits data 8 ++
    intToBits (data ^^^ Config.fieldMask) 8

/-- The mark and the space of one slot: the symbol BIT0 or BIT1 (30_encoding.md R49). -/
def slotDurations (b : Bool) : List Nat := [Config.tMark, if b then Config.tSpace1 else Config.tSpace0]

/-- The durations of a frame: LEAD, the symbol of each slot, TRAIL (30_encoding.md R50, R97). -/
def durations (bits : List Bool) : List Nat :=
  [Config.tLeadLow, Config.tLeadHigh] ++ bits.flatMap slotDurations ++ [Config.tMark]

/-- The prefix sums of a list, counted from `start` (R98). -/
def prefixSums : Nat → List Nat → List Nat
  | _, [] => []
  | start, d :: ds => (start + d) :: prefixSums (start + d) ds

/-- The absolute offsets of a frame's boundaries from its start instant (R98). -/
def offsets (bits : List Bool) : List Nat := prefixSums 0 (durations bits)

/-- The triple `(b, D, O)` of `tx_schedule` (R100). -/
structure Schedule where
  bits : List Bool
  durations : List Nat
  offsets : List Nat
  deriving DecidableEq, Repr

/-- `tx_schedule` (R100); values above 255 are truncated by the codec. -/
def txSchedule (user data : Nat) : Schedule where
  bits := txBits user data
  durations := durations (txBits user data)
  offsets := offsets (txBits user data)

/-- The offset table as `SEND` writes it (R101). -/
def txOffsets (user data : Nat) : Vector Nat 67 :=
  Vector.ofFn fun i => (txSchedule user data).offsets.getD i.val 0

end Sys2Proof.Machine
end

