-- ==== Sys2Proof/Machine/State.lean ====
section
/-! DEFINITION. The state of the block (10_state.md R15), what a run adds to it, the reasons a step can stop, and the
state after reset (70_reset_and_hazards.md R144). -/

namespace Sys2Proof.Machine

/-- The first-bit tag, nested in the stage (10_state.md R16). -/
inductive BitTag where
  | firstBit
  | subsequentBit
  deriving DecidableEq, Repr

/-- The receive stage, named by the edge it waits for (10_state.md R16, 90_conflicts.md C1). -/
inductive Stage where
  | awaitLeadFall
  | awaitLeadRise
  | awaitBitFall (tag : BitTag)
  | awaitBitRise
  deriving DecidableEq, Repr

/-- The kinds of diagnostic (60_exceptions.md R121). A diagnostic carries its kind and nothing more. -/
inductive DiagKind where
  | timingViolation
  | levelViolation
  | timeout
  | checksumFailure
  | noInputCapability
  deriving DecidableEq, Repr

/-- One entry of the deferred queue (10_state.md R23). -/
inductive WorkItem where
  /-- a copy of the 32 slots of a completed frame -/
  | validate (f : Frame)
  | diag (kind : DiagKind)
  deriving DecidableEq, Repr

/-- Whether the output pin drives the line (10_state.md R26). -/
inductive PinMode where
  | input
  | output
  deriving DecidableEq, Repr

/-- What `tx_line` shows: a driven level (`L`, `H`) or released (`Z`) (30_encoding.md R58). -/
inductive TxLine where
  | driven (l : Level)
  | released
  deriving DecidableEq, Repr

/-- The verdict of the validator (43_frame_validator.md R84). -/
inductive Verdict where
  | valid (user data : Byte)
  | invalid
  deriving DecidableEq, Repr

/-- What a pure function returns. -/
inductive FnValue where
  | nat (n : Nat)
  | bits (seq : List Bool)
  | verdict (v : Verdict)
  | schedule (x : Schedule)
  | bool (b : Bool)
  deriving DecidableEq, Repr

/-- What leaves the block (10_state.md R34), and the value a pure function returns (log 6). -/
inductive Output where
  /-- port `rx_event` -/
  | callback (user data : Byte)
  /-- port `diag_event` -/
  | diag (kind : DiagKind)
  /-- port `tx_line`, at a change -/
  | txLine (l : TxLine)
  /-- port `wdt_arm`: the request to the one-shot timer, with its delay (log 13) -/
  | wdtArm (delay : Nat)
  /-- the value returned by a pure function -/
  | returned (v : FnValue)
  deriving DecidableEq, Repr

/-- An output with the global time of the step that made it. -/
structure Emission where
  time : Nat
  what : Output
  deriving DecidableEq, Repr

/-- The state: the fifteen items of 10_state.md R15, then what a run adds (INVENTORY.md, State).
A register of `W` bits holds a natural number below `2^W` (log 14). -/
structure State where
  /-- `stage`, R16 -/
  stage : Stage
  /-- `ptr`, R17 -/
  ptr : Nat
  /-- `frame[0..31]`, R18 -/
  frame : Frame
  /-- `last_ts`, R19 -/
  lastTs : Nat
  /-- `rx_enable`, R21 -/
  rxEnable : Bool
  /-- `wdt_pending`, R22 -/
  wdtPending : Bool
  /-- `wdt_deadline`, R22 -/
  wdtDeadline : Nat
  /-- `dq`, head first, R23 -/
  dq : List WorkItem
  /-- `dq_overflow`, R24 -/
  dqOverflow : Bool
  /-- `tx_busy`, R25 -/
  txBusy : Bool
  /-- `tx_t0`, R25 -/
  txT0 : Nat
  /-- `tx_off[0..66]`, R25 -/
  txOff : Vector Nat 67
  /-- `tx_idx`, R25 -/
  txIdx : Nat
  /-- `pin_mode`, R26 -/
  pinMode : PinMode
  /-- `pin_level`, R26 -/
  pinLevel : Level
  /-- the parameters of 00_scope.md R7, never written (log 1) -/
  params : Config.Params
  /-- the global time of 00_scope.md R8: that of the latest timed event (log 7) -/
  tau : Nat
  /-- `tau_arm` of 44_receive_watchdog.md R90: the global time of the latest arm step; it has a meaning while
  `wdt_pending` (log 21) -/
  wdtArmedAt : Nat
  /-- `tau_send` of 45_transmit_encoder.md R104: the global time of the latest SEND; it has a meaning while
  `tx_busy` (log 21) -/
  txStartedAt : Nat
  /-- the fault mark of the run (70_reset_and_hazards.md R157, 93_implementation_defined.md U9): `dq_overflow`
  became `true` at some step; nothing clears it (log 22) -/
  faulted : Bool
  /-- the events and operation words still to come, oldest first (log 3) -/
  script : List Item
  /-- what has left the block, oldest first (log 12) -/
  trace : List Emission
  deriving DecidableEq, Repr

/-- Why a run is stuck: the step is not enabled (93_implementation_defined.md U18). Each stops the run where the
spec has no step, so each is safe. -/
inductive Fault where
  /-- raised by the six EDGE meanings when the dispatch key does not select them (30_encoding.md R56, log 11); safe -/
  | notSelected
  /-- raised by the fetch of an EDGE event whose key is one that cannot occur (30_encoding.md R56, log 19); safe -/
  | keyCannotOccur (key : Byte)
  /-- raised by the fetch of an event whose time is before the global time (00_scope.md R8, log 7); safe -/
  | timeRunsBack
  /-- raised by WDT.EXPIRE when `wdt_pending` is false (44_receive_watchdog.md R90); safe -/
  | expiryNotPending
  /-- raised by WDT.EXPIRE before the deadline or later than WDT_LATENCY_MAX after it (R90); safe -/
  | expiryOutsideWindow
  /-- raised by the fetch of an item later than WDT_LATENCY_MAX after the deadline of a pending expiry, which has
  to happen before (R90, log 8); safe -/
  | expiryOverdue
  /-- raised by the fetch of a RUN event and by the DQ.RUN meanings on an empty queue (47_deferred_executor.md R115); safe -/
  | queueEmpty
  /-- raised by the DQ.RUN meanings when the head is an item of the other kind (R115, R116); safe -/
  | queueHeadOther
  /-- raised by TX.TOGGLE when no transmission is in progress, all boundaries are done, or the boundary is not
  reached (45_transmit_encoder.md R102); safe -/
  | toggleNotEnabled
  /-- raised by TX.TOGGLE later than TX_LATENCY_MAX after the boundary (R104, log 9); safe -/
  | toggleTooLate
  /-- raised by the fetch of an item later than TX_LATENCY_MAX after the next boundary, whose toggle has to happen
  before (R104, log 9); safe -/
  | toggleOverdue
  /-- raised by TX.RELEASE when no transmission is in progress or a boundary is left (R103); safe -/
  | releaseNotEnabled
  deriving DecidableEq, Repr

/-- What the model gives no meaning. Each stops the run, so each is safe. -/
inductive Refusal where
  /-- raised by `exec` for an operation without a meaning (none is left); safe -/
  | notModelled (mnemonic : String)
  /-- raised by SEND with no output capability (46_controller_facade.md R110 item 1); safe -/
  | sendWithoutOutput
  /-- raised by SEND during a transmission (R110 item 2); safe -/
  | sendWhileBusy
  /-- raised by SEND with an operand outside 0 .. 255 (R110 item 3); safe -/
  | sendOperandOutOfRange
  /-- raised by the fetch of a word that encodes no operation; safe -/
  | undecodable (e : DecodeError)
  deriving DecidableEq, Repr

/-- The three outcomes of an operation. -/
abbrev Result := Host.Outcome State Fault Refusal

/-- The machine right after reset: the values of 70_reset_and_hazards.md R144. `lastTs`, `wdtDeadline`, `txT0`,
`txOff` and `pinLevel` are unspecified there; the values here are the model's (DESIGN CHOICE, log 2: 0, `Low`, and
for `tx_off` the offsets of `tx_schedule(0, 0)`, so that 10_state.md R32 item 3 holds after RESET), and so are the
parameters (log 1), the times (log 7, log 21), the clear fault mark (log 22) and the empty script and trace
(log 3, log 12). -/
def State.reset : State where
  stage := .awaitLeadFall
  ptr := 0
  frame := Vector.replicate 32 false
  lastTs := 0
  rxEnable := false
  wdtPending := false
  wdtDeadline := 0
  dq := []
  dqOverflow := false
  txBusy := false
  txT0 := 0
  txOff := txOffsets 0 0
  txIdx := 0
  pinMode := .input
  pinLevel := .low
  params := Config.Params.ofTestVectors
  tau := 0
  wdtArmedAt := 0
  txStartedAt := 0
  faulted := false
  script := []
  trace := []

end Sys2Proof.Machine
end

