-- ==== Sys2Proof/Machine/Ops.lean ====
section
/-! DEFINITION. The shared operations over the registers: counter arithmetic, the common step of an edge, the attempt
reset, the queue, the abort procedure, the watchdog's arm step, the output pin, and the outputs. -/

namespace Sys2Proof.Machine

/-! ## Counter arithmetic (00_scope.md R13) -/

/-- `trunc_W(v)`. -/
def truncW (w v : Nat) : Nat := v % 2 ^ w

/-- `sub_W(a, b) = (a - b) mod 2^W`. -/
def subW (w a b : Nat) : Nat := (a + 2 ^ w - b % 2 ^ w) % 2 ^ w

/-- `absdiff(a, b)`, with no wrap. -/
def absDiff (a b : Nat) : Nat := if a ≤ b then b - a else a - b

/-- The accept test of 41_receive_state_machine.md R61: `|d - nominal| <= TOL` in the integers. -/
def within (d nominal : Nat) : Bool := decide (absDiff d nominal ≤ Config.tol)

/-- `now_us()` (00_scope.md R8). -/
def State.nowUs (s : State) : Nat := truncW s.params.clockBits s.tau

/-! ## Outputs (10_state.md R34) -/

/-- An output leaves the block at the current global time. -/
def emit (o : Output) (s : State) : State := { s with trace := s.trace ++ [⟨s.tau, o⟩] }

/-- What the transmit pin shows (10_state.md R26, 30_encoding.md R58). -/
def State.txLine (s : State) : TxLine :=
  match s.pinMode with
  | .output => .driven s.pinLevel
  | .input => .released

/-- The level seen on the transmit line (10_state.md R26): an undriven line idles `High`. -/
def State.txLineLevel (s : State) : Level :=
  match s.pinMode with
  | .output => s.pinLevel
  | .input => .high

/-- Port `irq_subscribe` (10_state.md R34). -/
def State.irqSubscribe (s : State) : Bool := s.rxEnable

/-- The number of a kind on the `diag_event` port (60_exceptions.md R121). -/
def DiagKind.code : DiagKind → Nat
  | .timingViolation => 1
  | .levelViolation => 2
  | .timeout => 3
  | .checksumFailure => 4
  | .noInputCapability => 5

/-- Whether an output is part of the observable behaviour of a run (10_state.md R34): `Callback`, `Diag`, and
the changes of `tx_line`. -/
def Output.observable : Output → Bool
  | .callback _ _ | .diag _ | .txLine _ => true
  | .wdtArm _ | .returned _ => false

/-- The observable behaviour so far (10_state.md R34). -/
def State.observed (s : State) : List Emission := s.trace.filter fun e => e.what.observable

/-! ## Receiver -/

/-- The delta of an edge handled at time `t` (41_receive_state_machine.md R62). -/
def edgeDelta (t : Nat) (s : State) : Nat :=
  subW s.params.clockBits (truncW s.params.clockBits t) s.lastTs

/-- The write every handled edge makes (R62): `last_ts <- now`. -/
def stamp (t : Nat) (s : State) : State := { s with lastTs := truncW s.params.clockBits t }

/-- The attempt reset (R65). -/
def attemptReset (s : State) : State :=
  { s with stage := .awaitLeadFall, ptr := 0, frame := clearFrame }

/-- Whether `length(dq) < QUEUE_DEPTH` (47_deferred_executor.md R114). -/
def hasRoom (s : State) : Bool := decide (s.dq.length < s.params.queueDepth)

/-- The enqueue procedure (R114): on a full queue the item is dropped, the sticky flag is set, and the run is marked
faulted (70_reset_and_hazards.md R157). -/
def enqueue (item : WorkItem) (s : State) : State :=
  bif hasRoom s then { s with dq := s.dq ++ [item] } else { s with dqOverflow := true, faulted := true }

/-- Taking an error: the abort procedure `raise Abort(kind)` (60_exceptions.md R126). Nothing is saved and there
is no return from it (R127, R128): the next edge with `lvl = Low` opens a fresh attempt. -/
def abort (kind : DiagKind) (s : State) : State := enqueue (.diag kind) (attemptReset s)

/-- The watchdog's arm step (44_receive_watchdog.md R88), with the request of port `wdt_arm`; the global time of the
arm is `tau_arm` of R90 (log 21). -/
def armWatchdog (t : Nat) (s : State) : State :=
  emit (.wdtArm Config.tWdt)
    { s with
      wdtPending := true
      wdtDeadline := truncW s.params.clockBits (truncW s.params.clockBits t + Config.tWdt)
      wdtArmedAt := t }

/-- The start of an attempt (41_receive_state_machine.md R67): clear the frame, arm, wait for the rising edge. -/
def openAttempt (t : Nat) (s : State) : State :=
  armWatchdog t { s with frame := clearFrame, ptr := 0, stage := .awaitLeadRise }

/-- The write of a classified bit (R71): slot `ptr`, then the pointer moves on. -/
def storeBit (b : Bool) (s : State) : State :=
  { s with frame := s.frame.setIfInBounds s.ptr b, ptr := s.ptr + 1, stage := .awaitBitRise }

/-- Control transfer of the receiver: `stage <- S`. -/
def goto (st : Stage) (s : State) : State := { s with stage := st }

/-- Subscribe to the edge interrupt, or unsubscribe (10_state.md R21). -/
def subscribe (on : Bool) (s : State) : State := { s with rxEnable := on }

/-- The pending expiry is gone: the timer has fired (44_receive_watchdog.md R91). -/
def disarm (s : State) : State := { s with wdtPending := false }

/-- The queue after its head was taken: `dq <- tail(dq)` (47_deferred_executor.md R115). -/
def withQueue (q : List WorkItem) (s : State) : State := { s with dq := q }

/-! ## Transmitter -/

/-- The time since the start instant (45_transmit_encoder.md R102). -/
def txElapsed (t : Nat) (s : State) : Nat :=
  subW s.params.clockBits (truncW s.params.clockBits t) s.txT0

/-- The offset of the next boundary, `tx_off[tx_idx]`. -/
def nextOffset (s : State) : Nat := s.txOff.toList.getD s.txIdx 0

/-- The pin is driven `Low` (`off()` and the switch to output), and the line changes. -/
def driveLow (s : State) : State :=
  emit (.txLine (.driven .low)) { s with pinLevel := .low, pinMode := .output }

/-- `toggle()`, and the line changes. -/
def togglePin (s : State) : State :=
  emit (.txLine (.driven s.pinLevel.flip)) { s with pinLevel := s.pinLevel.flip }

/-- One more boundary is done (R102). -/
def nextBoundary (s : State) : State := { s with txIdx := s.txIdx + 1 }

/-- No transmission is in progress any more (R103). -/
def endTransmission (s : State) : State := { s with txIdx := 0, txBusy := false }

/-- The pin reverts to input, and the line is released. -/
def releasePin (s : State) : State := emit (.txLine .released) { s with pinMode := .input }

end Sys2Proof.Machine
end

