-- ==== Sys2Proof/Machine/Operands.lean ====
section
/-! DEFINITION. The values the operations compute: the validator's verdict and the edges of a
waveform (a transmission's schedule is in Schedule.lean, the codec in Codec.lean). -/

namespace Sys2Proof.Machine

/-- `validate_frame` (43_frame_validator.md R84); the `xor` is on 8-bit values. -/
def validateFrame (f : Frame) : Verdict :=
  if field f 0 ^^^ field f 1 = 0xFF ∧ field f 2 ^^^ field f 3 = 0xFF then .valid (field f 0) (field f 2)
  else .invalid

/-- The edges of an alternating waveform (30_encoding.md R59): the first at time `t` with level `lvl` after it,
each next one a duration later with the other level. -/
def waveFrom (t : Nat) (lvl : Level) : List Nat → List Event
  | [] => [.edge t lvl]
  | d :: ds => .edge t lvl :: waveFrom (t + d) lvl.flip ds

/-- `WAVE t0 d1 ... dn` (R59): the first edge falls. -/
def wave (t0 : Nat) (ds : List Nat) : List Event := waveFrom t0 .low ds

/-- `RAWFRAME t0 a b c e` (R59): the 68 edges of a frame with these four field values. -/
def rawFrame (t0 : Nat) (user userC data dataC : Byte) : List Event :=
  wave t0 (durations (fieldsToBits user userC data dataC))

/-- `NECFRAME t0 u d` (R59). -/
def necFrame (t0 : Nat) (user data : Byte) : List Event := rawFrame t0 user (user ^^^ 0xFF) data (data ^^^ 0xFF)

/-- `FALL t` (R59). -/
def fall (t : Nat) : Event := .edge t .low

/-- `RISE t` (R59). -/
def rise (t : Nat) : Event := .edge t .high

/-- `DRAIN` (R59): `RUN` until `dq` is empty; a `RUN` enqueues nothing, so one for each queued item. -/
def drain (s : State) : List Event := List.replicate s.dq.length .run

/-- `TXALL` (R59) for a transmission of these offsets started at `tSend`: every latency zero. -/
def txAll (tSend : Nat) (offs : List Nat) : List Event :=
  offs.map (fun o => .txt (tSend + o)) ++ [.txr (tSend + offs.getLastD 0)]

end Sys2Proof.Machine
end

