-- ==== Sys2Proof/Machine/Deferred.lean ====
section
/-! DEFINITION. The deferred executor runs the head work item (47_deferred_executor.md R115, R116). -/

namespace Sys2Proof.Machine

/-- R115: validate the queued copy; exactly one output event results. -/
def execDqRunValidate (s : State) : Result :=
  match s.dq with
  | [] => .fault .queueEmpty
  | .diag _ :: _ => .fault .queueHeadOther
  | .validate f :: rest =>
    match validateFrame f with
    | .valid user data => .next (emit (.callback user data) (withQueue rest s))
    | .invalid => .next (emit (.diag .checksumFailure) (withQueue rest s))

/-- R116: emit the queued diagnostic. -/
def execDqRunDiag (s : State) : Result :=
  match s.dq with
  | [] => .fault .queueEmpty
  | .validate _ :: _ => .fault .queueHeadOther
  | .diag kind :: rest => .next (emit (.diag kind) (withQueue rest s))

end Sys2Proof.Machine
end

