-- ==== Sys2Proof/Machine/Facade.lean ====
section
/-! DEFINITION. The receive commands (46_controller_facade.md R108, R109) and power-on reset
(70_reset_and_hazards.md R144). -/

namespace Sys2Proof.Machine

/-- R108: without an input capability, a warning emitted directly and nothing else. -/
def execStartReceive (s : State) : Result :=
  if s.params.hasInput then .next (subscribe true (attemptReset s))
  else .next (emit (.diag .noInputCapability) s)

/-- R109: unsubscribe, and nothing more. -/
def execStopReceive (s : State) : Result := .next (subscribe false s)

/-- Every register of the block at its reset value (R144); the parameters, the time, the run's fault mark, the script
and the trace are not the block's (log 18, log 22). -/
def resetRegisters (s : State) : State :=
  { State.reset with
    params := s.params, tau := s.tau, faulted := s.faulted, script := s.script, trace := s.trace }

/-- R144; a line that was driven is released (log 12). -/
def execReset (s : State) : Result :=
  match s.pinMode with
  | .input => .next (resetRegisters s)
  | .output => .next (emit (.txLine .released) (resetRegisters s))

end Sys2Proof.Machine
end

