-- ==== Sys2Proof/Machine/Functions.lean ====
section
/-! DEFINITION. The five pure functions as operations: each writes no register of the block, and the value it
returns is recorded (log 6). -/

namespace Sys2Proof.Machine

/-- 42_bit_codec.md R79. -/
def execBitsToInt (seq : List Bool) (s : State) : Result :=
  .next (emit (.returned (.nat (bitsToInt seq))) s)

/-- 42_bit_codec.md R80. -/
def execIntToBits (value length : Nat) (s : State) : Result :=
  .next (emit (.returned (.bits (intToBits value length))) s)

/-- 43_frame_validator.md R84. -/
def execValidateFrame (f : Frame) (s : State) : Result :=
  .next (emit (.returned (.verdict (validateFrame f))) s)

/-- 45_transmit_encoder.md R100. -/
def execTxSchedule (user data : Nat) (s : State) : Result :=
  .next (emit (.returned (.schedule (txSchedule user data))) s)

/-- 41_receive_state_machine.md R61. -/
def execWithin (d nominal : Nat) (s : State) : Result :=
  .next (emit (.returned (.bool (within d nominal))) s)

end Sys2Proof.Machine
end

