-- ==== Sys2Proof/Machine/Flags.lean ====
section
/-! DEFINITION. The Boolean conditions that steer the block (10_state.md R27): the first-bit tag, `ptr = 32`, the
dispatch condition of an edge, and the enabling conditions of the timer and the transmitter. -/

namespace Sys2Proof.Machine

/-- The first-bit tag, held inside the stage (10_state.md R27). -/
def firstBitTag (s : State) : Bool := s.stage == .awaitBitFall .firstBit

/-- `ptr = 32`, the terminal test of the `AwaitBitRise` dispatch (10_state.md R27). -/
def ptrFull (s : State) : Bool := s.ptr == Config.frameBits

/-- Whether the dispatch key of an edge selects the operation of this stage and pointer flag (30_encoding.md R56). -/
def edgeSelects (st : Stage) (full : Bool) (s : State) : Bool :=
  s.rxEnable && s.stage == st && ptrFull s == full

/-- Whether an attempt is in progress (44_receive_watchdog.md R91). -/
def inAttempt (s : State) : Bool := !(s.stage == .awaitLeadFall)

/-- The latest global time of a pending expiry, `tau_arm + T_WDT + WDT_LATENCY_MAX` (44_receive_watchdog.md R90). -/
def expiryBound (s : State) : Nat := s.wdtArmedAt + Config.tWdt + s.params.wdtLatencyMax

/-- Whether a pending expiry may happen at global time `t` (R90): the deadline is reached on the counter, at most
WDT_LATENCY_MAX ago, and `t` lies from the arm to the expiry's bound, so that the counter's wrap admits no other
time (log 8). -/
def expiryInWindow (t : Nat) (s : State) : Bool :=
  decide (subW s.params.clockBits (truncW s.params.clockBits t) s.wdtDeadline ≤ s.params.wdtLatencyMax) &&
    decide (s.wdtArmedAt ≤ t) && decide (t ≤ expiryBound s)

/-- Whether a pending expiry would be missed by going on to time `t` (R90, log 8). -/
def expiryMissed (t : Nat) (s : State) : Bool := s.wdtPending && decide (expiryBound s < t)

/-- The latest global time of the next toggle, `tau_send + O[k] + TX_LATENCY_MAX` (45_transmit_encoder.md R104). -/
def toggleBound (s : State) : Nat := s.txStartedAt + nextOffset s + s.params.txLatencyMax

/-- Whether the next boundary is reached at time `t` (R102), after the start of the transmission. -/
def toggleReached (t : Nat) (s : State) : Bool :=
  s.txBusy && decide (s.txIdx ≤ 66) && decide (nextOffset s ≤ txElapsed t s) && decide (s.txStartedAt ≤ t)

/-- Whether a toggle at time `t` keeps the upper bound of 45_transmit_encoder.md R104, in global time. -/
def toggleInTime (t : Nat) (s : State) : Bool := decide (t ≤ toggleBound s)

/-- Whether the next toggle would be missed by going on to time `t` (R104, log 9). -/
def toggleMissed (t : Nat) (s : State) : Bool :=
  s.txBusy && decide (s.txIdx ≤ 66) && decide (toggleBound s < t)

/-- Whether the transmission may be released (R103). -/
def releaseReady (s : State) : Bool := s.txBusy && s.txIdx == 67

end Sys2Proof.Machine
end

