-- ==== Sys2Proof/Machine/Receive.lean ====
section
/-! DEFINITION. The six edge operations (41_receive_state_machine.md R67 to R72). -/

namespace Sys2Proof.Machine

/-- R67: the opening edge of an attempt; the only operation that looks at the level (R64). -/
def execEdgeLeadfall (t : Nat) (lvl : Level) (s : State) : Result :=
  if edgeSelects .awaitLeadFall false s then
    match lvl with
    | .high => .next (abort .levelViolation (stamp t s))
    | .low => .next (openAttempt t (stamp t s))
  else .fault .notSelected

/-- The shape of the three operations that check one duration: go on when the delta is within tolerance of the
nominal, else abort (60_exceptions.md R122). -/
def checkDuration (nominal : Nat) (target : Stage) (t : Nat) (s : State) : State :=
  if within (edgeDelta t s) nominal then goto target (stamp t s) else abort .timingViolation (stamp t s)

/-- R68: the end of the lead's low part. -/
def execEdgeLeadrise (t : Nat) (_lvl : Level) (s : State) : Result :=
  if edgeSelects .awaitLeadRise false s then
    .next (checkDuration Config.tLeadLow (.awaitBitFall .firstBit) t s)
  else .fault .notSelected

/-- R69: the end of the lead's high part. -/
def execEdgeBitfallFirst (t : Nat) (_lvl : Level) (s : State) : Result :=
  if edgeSelects (.awaitBitFall .firstBit) false s then
    .next (checkDuration Config.tLeadHigh .awaitBitRise t s)
  else .fault .notSelected

/-- R70: the end of the mark that opens slot `ptr`. -/
def execEdgeBitriseMark (t : Nat) (_lvl : Level) (s : State) : Result :=
  if edgeSelects .awaitBitRise false s then
    .next (checkDuration Config.tMark (.awaitBitFall .subsequentBit) t s)
  else .fault .notSelected

/-- The classification of a space (R71): `0`, `1`, or neither. -/
def classify (d : Nat) : Option Bool :=
  if within d Config.tSpace0 then some false
  else if within d Config.tSpace1 then some true
  else none

/-- R71: the end of the space of slot `ptr`. -/
def execEdgeBitfallNext (t : Nat) (_lvl : Level) (s : State) : Result :=
  if edgeSelects (.awaitBitFall .subsequentBit) false s then
    match classify (edgeDelta t s) with
    | some b => .next (storeBit b (stamp t s))
    | none => .next (abort .timingViolation (stamp t s))
  else .fault .notSelected

/-- R72: the terminal action; no duration is checked. -/
def execEdgeBitriseTerm (t : Nat) (_lvl : Level) (s : State) : Result :=
  if edgeSelects .awaitBitRise true s then
    .next (attemptReset (enqueue (.validate s.frame) (stamp t s)))
  else .fault .notSelected

end Sys2Proof.Machine
end

