-- ==== Sys2Proof/Machine/Transmit.lean ====
section
/-! DEFINITION. The transmitter's operations (45_transmit_encoder.md R101 to R103), SEND with the guards of
46_controller_facade.md R110. -/

namespace Sys2Proof.Machine

/-- The start of a transmission (R101), all of it one step; its global time is `tau_send` of R104 (log 21). -/
def startTransmission (t user data : Nat) (s : State) : State :=
  driveLow
    { s with
      txOff := txOffsets user data
      txT0 := truncW s.params.clockBits t
      txStartedAt := t
      txIdx := 0
      txBusy := true }

/-- R101 with the three refused cases of R110. -/
def execSend (t user data : Nat) (s : State) : Result :=
  if s.params.hasOutput = false then .refused .sendWithoutOutput
  else if s.txBusy = true then .refused .sendWhileBusy
  else if 255 < user ∨ 255 < data then .refused .sendOperandOutOfRange
  else .next (startTransmission t user data s)

/-- R102: one boundary; R104 bounds its lateness (log 9). -/
def execTxToggle (t : Nat) (s : State) : Result :=
  if toggleReached t s = false then .fault .toggleNotEnabled
  else if toggleInTime t s = false then .fault .toggleTooLate
  else .next (togglePin (nextBoundary s))

/-- R103: the end of a transmission; `_t` only places it in time. -/
def execTxRelease (_t : Nat) (s : State) : Result :=
  if releaseReady s then .next (releasePin (endTransmission s))
  else .fault .releaseNotEnabled

end Sys2Proof.Machine
end

