-- ==== Sys2Proof/Machine/Watchdog.lean ====
section
/-! DEFINITION. The watchdog's expiry (44_receive_watchdog.md R90, R91). -/

namespace Sys2Proof.Machine

/-- R91: an attempt in progress is reset as a Timeout; else only `wdt_pending` is cleared. -/
def execWdtExpire (t : Nat) (s : State) : Result :=
  if s.wdtPending = false then .fault .expiryNotPending
  else if expiryInWindow t s = false then .fault .expiryOutsideWindow
  else if inAttempt s then .next (enqueue (.diag .timeout) (attemptReset (disarm s)))
  else .next (disarm s)

end Sys2Proof.Machine
end

