-- ==== Sys2Proof/Machine/Wire.lean ====
section
/-! DEFINITION. A frame on the receive line (30_encoding.md R47, R50): the line carries LEAD, the symbols of the 32
slots and TRAIL, which is the 68 edges of RAWFRAME (R59). -/

namespace Sys2Proof.Machine

/-- The line's next events are the edges of the frame (log 5); the block itself is not touched until they come. -/
def execFrame (t0 : Nat) (user userC data dataC : Byte) (s : State) : Result :=
  .next { s with script := (rawFrame t0 user userC data dataC).map .event ++ s.script }

end Sys2Proof.Machine
end

