-- ==== Sys2Proof/Machine/Dispatch.lean ====
section
/-! DEFINITION. The meaning of every operation: one arm per row of spec/opcode_table.json. -/

namespace Sys2Proof.Machine

def exec (i : Instr) (s : State) : Host.Outcome State Fault Refusal :=
  match i with
  | .reset => Sys2Proof.Machine.execReset s
  | .startReceive => Sys2Proof.Machine.execStartReceive s
  | .stopReceive => Sys2Proof.Machine.execStopReceive s
  | .send t user data => Sys2Proof.Machine.execSend t user data s
  | .edgeLeadfall t lvl => Sys2Proof.Machine.execEdgeLeadfall t lvl s
  | .edgeLeadrise t lvl => Sys2Proof.Machine.execEdgeLeadrise t lvl s
  | .edgeBitfallFirst t lvl => Sys2Proof.Machine.execEdgeBitfallFirst t lvl s
  | .edgeBitfallNext t lvl => Sys2Proof.Machine.execEdgeBitfallNext t lvl s
  | .edgeBitriseMark t lvl => Sys2Proof.Machine.execEdgeBitriseMark t lvl s
  | .edgeBitriseTerm t lvl => Sys2Proof.Machine.execEdgeBitriseTerm t lvl s
  | .wdtExpire t => Sys2Proof.Machine.execWdtExpire t s
  | .dqRunValidate => Sys2Proof.Machine.execDqRunValidate s
  | .dqRunDiag => Sys2Proof.Machine.execDqRunDiag s
  | .txToggle t => Sys2Proof.Machine.execTxToggle t s
  | .txRelease t => Sys2Proof.Machine.execTxRelease t s
  | .bitsToInt seq => Sys2Proof.Machine.execBitsToInt seq s
  | .intToBits value length => Sys2Proof.Machine.execIntToBits value length s
  | .validateFrame f => Sys2Proof.Machine.execValidateFrame f s
  | .txSchedule user data => Sys2Proof.Machine.execTxSchedule user data s
  | .within d nominal => Sys2Proof.Machine.execWithin d nominal s
  | .frame t0 user userC data dataC => Sys2Proof.Machine.execFrame t0 user userC data dataC s

end Sys2Proof.Machine
end

