-- ==== Sys2Proof/Machine/Fetch.lean ====
section
/-! DEFINITION. What the next step runs: the head of the script, its time, and the operation the dispatch key selects
(30_encoding.md R56). -/

namespace Sys2Proof.Machine

/-- The code of a stage (10_state.md R16). -/
def Stage.code : Stage → Nat
  | .awaitLeadFall => 0
  | .awaitLeadRise => 1
  | .awaitBitFall .firstBit => 2
  | .awaitBitFall .subsequentBit => 3
  | .awaitBitRise => 4

/-- The key of a handled edge: `0100 sssp` (R56). -/
def edgeKey (s : State) : Byte := BitVec.ofNat 8 (0x40 + 2 * s.stage.code + (ptrFull s).toNat)

/-- The dispatch key of an event (R56); none for an edge while unsubscribed (41_receive_state_machine.md R66)
and for a RUN with nothing queued. -/
def dispatchKey (e : Event) (s : State) : Option Byte :=
  match e with
  | .reset => some 0x00
  | .start => some 0x10
  | .stop => some 0x20
  | .send _ _ _ => some 0x30
  | .edge _ _ => if s.rxEnable then some (edgeKey s) else none
  | .wdt _ => some 0x50
  | .run =>
    match s.dq with
    | [] => none
    | .validate _ :: _ => some 0x60
    | .diag _ :: _ => some 0x61
  | .txt _ => some 0x70
  | .txr _ => some 0x80

/-- The operation of a row with the operands the event carries. -/
def instrOf (e : Event) (o : Op) : Option Instr :=
  match e, o with
  | .reset, .reset => some .reset
  | .start, .startReceive => some .startReceive
  | .stop, .stopReceive => some .stopReceive
  | .send t user data, .send => some (.send t user data)
  | .edge t lvl, .edgeLeadfall => some (.edgeLeadfall t lvl)
  | .edge t lvl, .edgeLeadrise => some (.edgeLeadrise t lvl)
  | .edge t lvl, .edgeBitfallFirst => some (.edgeBitfallFirst t lvl)
  | .edge t lvl, .edgeBitfallNext => some (.edgeBitfallNext t lvl)
  | .edge t lvl, .edgeBitriseMark => some (.edgeBitriseMark t lvl)
  | .edge t lvl, .edgeBitriseTerm => some (.edgeBitriseTerm t lvl)
  | .wdt t, .wdtExpire => some (.wdtExpire t)
  | .run, .dqRunValidate => some .dqRunValidate
  | .run, .dqRunDiag => some .dqRunDiag
  | .txt t, .txToggle => some (.txToggle t)
  | .txr t, .txRelease => some (.txRelease t)
  | _, _ => none

/-- What the head of the script comes to. -/
inductive Fetched where
  /-- the script is exhausted -/
  | idle
  /-- the event selects no operation -/
  | ignored (s : State)
  /-- an operation to run, from the state with the item taken and the time moved on -/
  | run (i : Instr) (s : State)
  | stuck (f : Fault)
  | rejected (r : Refusal)
  deriving DecidableEq, Repr

/-- The item is taken and the global time becomes that of the event. Time never decreases (00_scope.md R8, log 7), and
it does not pass the latest time of a pending expiry (44_receive_watchdog.md R90, log 8) or of the next toggle
(45_transmit_encoder.md R104, log 9): these happen before. -/
def takeItem (time : Option Nat) (rest : List Item) (s : State) : Except Fault State :=
  match time with
  | none => .ok { s with script := rest }
  | some t =>
    if t < s.tau then .error .timeRunsBack
    else if expiryMissed t s then .error .expiryOverdue
    else if toggleMissed t s then .error .toggleOverdue
    else .ok { s with script := rest, tau := t }

/-- The operation an event selects (R56). -/
def selectEvent (e : Event) (s : State) : Fetched :=
  match dispatchKey e s with
  | some k =>
    match (opOfKey k).bind (instrOf e) with
    | some i => .run i s
    | none => .stuck (.keyCannotOccur k)
  | none =>
    match e with
    | .run => .stuck .queueEmpty
    | _ => .ignored s

/-- The head of the script: an event goes through the dispatch key, an operation word through the decoder (an item
holds one operation; bytes after it are not read). -/
def fetch (s : State) : Fetched :=
  match s.script with
  | [] => .idle
  | .event e :: rest =>
    match takeItem e.time rest s with
    | .ok s1 => selectEvent e s1
    | .error f => .stuck f
  | .word fmt bytes :: rest =>
    match decode fmt bytes with
    | .error e => .rejected (.undecodable e)
    | .ok p =>
      match takeItem p.1.time rest s with
      | .ok s1 => .run p.1 s1
      | .error f => .stuck f

/-- The state in which an edge with this stage and pointer flag is the next thing handled. -/
def awaiting (st : Stage) (full : Bool) (s : State) : State :=
  { s with
    rxEnable := true
    stage := st
    ptr := if full then Config.frameBits else if ptrFull s then 0 else s.ptr }

/-- Replace the head of the queue by this item. -/
def withHead (item : WorkItem) (s : State) : State := { s with dq := item :: s.dq.tail }

/-- The selection and enabling an operation takes, made in the state (log 17): nothing else is changed. -/
def prepareFor (i : Instr) (s : State) : State :=
  match i with
  | .edgeLeadfall _ _ => awaiting .awaitLeadFall false s
  | .edgeLeadrise _ _ => awaiting .awaitLeadRise false s
  | .edgeBitfallFirst _ _ => awaiting (.awaitBitFall .firstBit) false s
  | .edgeBitfallNext _ _ => awaiting (.awaitBitFall .subsequentBit) false s
  | .edgeBitriseMark _ _ => awaiting .awaitBitRise false s
  | .edgeBitriseTerm _ _ => awaiting .awaitBitRise true s
  | .wdtExpire t =>
    { s with
      wdtPending := true
      wdtDeadline := truncW s.params.clockBits t
      wdtArmedAt := t - Config.tWdt }
  | .dqRunValidate =>
    match s.dq with
    | .validate _ :: _ => s
    | _ => withHead (.validate s.frame) s
  | .dqRunDiag =>
    match s.dq with
    | .diag _ :: _ => s
    | _ => withHead (.diag .timeout) s
  | .txToggle t =>
    { s with
      txBusy := true
      pinMode := .output
      pinLevel := .low
      txIdx := 0
      txT0 := subW s.params.clockBits (truncW s.params.clockBits t) (s.txOff.toList.getD 0 0)
      txStartedAt := t - s.txOff.toList.getD 0 0 }
  | .txRelease _ => { s with txBusy := true, pinMode := .output, pinLevel := .high, txIdx := 67 }
  | _ => s

/-- The global time does not lie after the operation's own, and no expiry and no toggle is missed by it. -/
def makePunctual (time : Option Nat) (s : State) : State :=
  match time with
  | none => s
  | some t =>
    { s with
      tau := min s.tau t
      wdtArmedAt := bif expiryMissed t s then t else s.wdtArmedAt
      wdtDeadline := bif expiryMissed t s then
        truncW s.params.clockBits (truncW s.params.clockBits t + Config.tWdt) else s.wdtDeadline
      txStartedAt := bif toggleMissed t s then t else s.txStartedAt
      txT0 := bif toggleMissed t s then truncW s.params.clockBits t else s.txT0 }

/-- Place an operation word at the head of the script, with the selection it takes to run next (log 17). -/
def loadWord (fmt : Format) (bytes : List Byte) (s : State) : State :=
  match decode fmt bytes with
  | .error _ => { s with script := .word fmt bytes :: s.script }
  | .ok p =>
    let s1 := makePunctual p.1.time (prepareFor p.1 s)
    { s1 with script := .word fmt bytes :: s.script }

end Sys2Proof.Machine
end

