-- ==== Sys2Proof/Machine/Step.lean ====
section
/-! DEFINITION. One step of the machine, and the placing of an operation word where the next step fetches it. -/

namespace Sys2Proof.Machine

/-- One step: the operation the head of the script selects, applied atomically (00_scope.md R10). With the script
exhausted the block stays as it is: it never halts and does nothing by itself (70_reset_and_hazards.md R157). -/
def step (s : State) : Host.Outcome State Fault Refusal :=
  match fetch s with
  | .idle => .next s
  | .ignored s1 => .next s1
  | .run i s1 => exec i s1
  | .stuck f => .fault f
  | .rejected r => .refused r

/-- The state with the opcode-table word `w` of `nbits` bits placed where the next step fetches (log 17). -/
def State.withFetchWord (s : State) (nbits w : Nat) : State :=
  loadWord (tableBytes nbits w).1 (tableBytes nbits w).2 s

end Sys2Proof.Machine
end

