-- ==== Sys2Proof/Safety.lean ====
section
/-! DEFINITION. The invariants of the receiver and the transmitter (10_state.md R31, R32), the bounds of the
counters, and what a finished and a faulted run are (70_reset_and_hazards.md R157). -/

namespace Sys2Proof.Safety

open Sys2Proof.Machine

/-- The counter difference `(a - b) mod 2^W`, taken in the integers (00_scope.md R13): what a statement compares
the model's `sub_W` with. -/
def counterDiff (w a b : Nat) : Nat := (((a : Int) - (b : Int)) % (2 : Int) ^ w).toNat

/-- Whether the queue has room (47_deferred_executor.md R114). -/
abbrev HasRoom (s : State) : Prop := s.dq.length < s.params.queueDepth

/-- The state an abort leaves (60_exceptions.md R126) after the write of the common step
(41_receive_state_machine.md R62): the receiver idle, and `Diag(kind)` queued or, on a full queue, the overflow
mark and the run's fault mark set. Everything else is as in `s`. -/
def aborted (kind : DiagKind) (t : Nat) (s : State) : State :=
  { s with
    lastTs := t % 2 ^ s.params.clockBits
    stage := .awaitLeadFall
    ptr := 0
    frame := Vector.replicate 32 false
    dq := if HasRoom s then s.dq ++ [.diag kind] else s.dq
    dqOverflow := if HasRoom s then s.dqOverflow else true
    faulted := if HasRoom s then s.faulted else true }

/-- `s` with one more output, at its global time. -/
def withOutput (o : Output) (s : State) : State := { s with trace := s.trace ++ [⟨s.tau, o⟩] }

/-- The dispatch key of an edge selects the operation of stage `st` with `ptr < 32` (30_encoding.md R56). -/
abbrev Selected (st : Stage) (s : State) : Prop := s.rxEnable = true ∧ s.stage = st ∧ s.ptr ≠ 32

/-- The dispatch key of an edge selects the terminal action (30_encoding.md R56). -/
abbrev SelectedTerm (s : State) : Prop := s.rxEnable = true ∧ s.stage = .awaitBitRise ∧ s.ptr = 32

/-- The receiver's invariants, the seven items of 10_state.md R31 in order. -/
abbrev RxInv (s : State) : Prop :=
  s.ptr ≤ 32 ∧
  (s.stage = .awaitLeadFall → s.ptr = 0) ∧
  (s.stage = .awaitLeadRise ∨ s.stage = .awaitBitFall .firstBit → s.ptr = 0) ∧
  (s.stage = .awaitBitFall .subsequentBit → s.ptr ≤ 31) ∧
  (∀ i : Fin 32, s.ptr ≤ i.val → s.frame[i] = false) ∧
  (s.stage ≠ .awaitLeadFall → s.wdtPending = true) ∧
  s.dq.length ≤ s.params.queueDepth

/-- The level of the driven pin after `n` boundaries (10_state.md R32). -/
def levelAfter (n : Nat) : Level := if n % 2 = 0 then .low else .high

/-- The transmitter's invariants, the three items of 10_state.md R32 in order. -/
abbrev TxInv (s : State) : Prop :=
  (s.txBusy = false → s.pinMode = .input ∧ s.txIdx = 0) ∧
  (s.txBusy = true → s.pinMode = .output ∧ s.txIdx ≤ 67 ∧
    s.pinLevel = levelAfter s.txIdx) ∧
  (∀ k : Fin 66, s.txOff[k.val] < s.txOff[k.val + 1]) ∧ s.txOff[0] = 9000 ∧ s.txOff[1] = 13500

/-- The registers that hold counter values are `W` bits wide (10_state.md R15), and a transmit offset is at most
85 740, which 17 bits hold (R25). -/
abbrev WidthInv (s : State) : Prop :=
  s.lastTs < 2 ^ s.params.clockBits ∧ s.wdtDeadline < 2 ^ s.params.clockBits ∧
  s.txT0 < 2 ^ s.params.clockBits ∧ ∀ k : Fin 67, s.txOff[k] ≤ 85740

/-- The kinds a queued diagnostic may have (10_state.md R23). -/
def queuedKind : WorkItem → Bool
  | .validate _ => true
  | .diag .timingViolation | .diag .levelViolation | .diag .timeout => true
  | .diag .checksumFailure | .diag .noInputCapability => false

/-- Every queued item is one of the items of 10_state.md R23, and a run whose queue overflowed carries its fault mark
(70_reset_and_hazards.md R157). -/
abbrev QueueInv (s : State) : Prop := s.dq.all queuedKind = true ∧ (s.dqOverflow = true → s.faulted = true)

/-- The registers hold the counter values of the global times (44_receive_watchdog.md R88, 45_transmit_encoder.md
R101), and neither a pending expiry (R90) nor the next toggle (R104) is past its latest time. -/
abbrev ClockInv (s : State) : Prop :=
  (s.wdtPending = true → s.wdtArmedAt ≤ s.tau ∧ s.tau ≤ s.wdtArmedAt + 100000 + s.params.wdtLatencyMax ∧
    s.wdtDeadline = (s.wdtArmedAt + 100000) % 2 ^ s.params.clockBits) ∧
  (s.txBusy = true → s.txStartedAt ≤ s.tau ∧ s.txT0 = s.txStartedAt % 2 ^ s.params.clockBits ∧
    ∀ k : Fin 67, s.txIdx = k.val → s.tau ≤ s.txStartedAt + s.txOff[k] + s.params.txLatencyMax)

/-- An item at time `t` comes on time: not before the global time (00_scope.md R8), not after the latest time of a
pending expiry (44_receive_watchdog.md R90) or of the next toggle (45_transmit_encoder.md R104). -/
abbrev OnTime (t : Nat) (s : State) : Prop :=
  s.tau ≤ t ∧ (s.wdtPending = true → t ≤ s.wdtArmedAt + 100000 + s.params.wdtLatencyMax) ∧
    ∀ k : Fin 67, s.txBusy = true → s.txIdx = k.val → t ≤ s.txStartedAt + s.txOff[k] + s.params.txLatencyMax

/-- The head of the script is an event at time `t`, or a word of an operation at time `t`. -/
abbrev HeadAt (t : Nat) (s : State) : Prop :=
  (∃ e rest, s.script = .event e :: rest ∧ e.time = some t) ∨
    ∃ fmt bytes rest i tail, s.script = .word fmt bytes :: rest ∧ decode fmt bytes = .ok (i, tail) ∧ i.time = some t

/-- The registers of the receiver, the watchdog and the deferred queue are the same (10_state.md R16 to R24). -/
abbrev SameReceiver (s t : State) : Prop :=
  t.stage = s.stage ∧ t.ptr = s.ptr ∧ t.frame = s.frame ∧ t.lastTs = s.lastTs ∧ t.rxEnable = s.rxEnable ∧
    t.wdtPending = s.wdtPending ∧ t.wdtDeadline = s.wdtDeadline ∧ t.wdtArmedAt = s.wdtArmedAt

/-- The deferred queue and its marks are the same. -/
abbrev SameQueue (s t : State) : Prop := t.dq = s.dq ∧ t.dqOverflow = s.dqOverflow ∧ t.faulted = s.faulted

/-- The registers of the transmitter are the same (10_state.md R25, R26). -/
abbrev SameTransmitter (s t : State) : Prop :=
  t.txBusy = s.txBusy ∧ t.txT0 = s.txT0 ∧ t.txStartedAt = s.txStartedAt ∧ t.txOff = s.txOff ∧ t.txIdx = s.txIdx ∧
    t.pinMode = s.pinMode ∧ t.pinLevel = s.pinLevel

/-- The operations of the interrupt context (60_exceptions.md R133). -/
def inInterruptContext (i : Instr) : Bool := i.domain == some .interrupt

/-- The operations of the transmitter (45_transmit_encoder.md section 2). -/
def ofTransmitter : Instr → Bool
  | .send _ _ _ | .txToggle _ | .txRelease _ => true
  | .reset | .startReceive | .stopReceive | .edgeLeadfall _ _ | .edgeLeadrise _ _ => false
  | .edgeBitfallFirst _ _ | .edgeBitfallNext _ _ | .edgeBitriseMark _ _ | .edgeBitriseTerm _ _ => false
  | .wdtExpire _ | .dqRunValidate | .dqRunDiag | .bitsToInt _ | .intToBits _ _ => false
  | .validateFrame _ | .txSchedule _ _ | .within _ _ | .frame _ _ _ _ _ => false

/-- The run is over (70_reset_and_hazards.md R157). -/
abbrev RunOver (s : State) : Prop :=
  s.script = [] ∧ s.dq = [] ∧ s.txBusy = false ∧ s.stage = .awaitLeadFall

/-- The run is one of which no claim is made (70_reset_and_hazards.md R157): `dq_overflow` became `true` in it, whether
or not a RESET cleared it since. A run with a refused command stops at it. -/
abbrev Faulted (s : State) : Prop := s.faulted = true

end Sys2Proof.Safety
end

