-- ==== Sys2Proof/Certificates/Slice0/Obligations.lean ====
section
/-! DEFINITION. The statements for the provers. Each docstring names the rule of spec/ it formalises. A right side
`{ s with ... }` is the whole next state: every field it does not name is unchanged, which is the operation's
frame. -/

open Sys2Proof Sys2Proof.Machine Sys2Proof.Safety

/-! ## Reset and the receive commands -/

/-- 70_reset_and_hazards.md R144: RESET is always enabled and writes the listing; the items the listing leaves
unspecified (`last_ts`, `wdt_deadline`, `tx_t0`, `tx_off`, `pin_level`) are not spoken of. No callback and no
diagnostic is emitted, and the line is released. -/
def Obligations.ResetWritesItsListing : Prop :=
  ∀ s : State, ∃ t, exec .reset s = .next t ∧
    t.stage = .awaitLeadFall ∧ t.ptr = 0 ∧ (∀ i : Fin 32, t.frame[i] = false) ∧ t.rxEnable = false ∧
    t.wdtPending = false ∧ t.dq = [] ∧ t.dqOverflow = false ∧ t.txBusy = false ∧ t.txIdx = 0 ∧
    t.pinMode = .input ∧ t.txLine = .released ∧
    ∃ out, t.trace = s.trace ++ out ∧
      ∀ e ∈ out, (∀ u d, e.what ≠ .callback u d) ∧ ∀ kind, e.what ≠ .diag kind

/-- The model's choices about RESET (log 12, log 18, log 22): the parameters, the time, the script, what has left the
block and the fault mark of the run are not the block's registers and stay; a driven line is recorded as released, an
idle one makes no output. Also the model's: the script (log 3). -/
def Obligations.ResetKeepsWhatIsNotTheBlocks : Prop :=
  ∀ s : State, ∃ t, exec .reset s = .next t ∧ t.params = s.params ∧ t.tau = s.tau ∧ t.script = s.script ∧
    t.faulted = s.faulted ∧ (s.pinMode = .input → t.trace = s.trace) ∧
    (s.pinMode = .output → t.trace = s.trace ++ [⟨s.tau, .txLine .released⟩])

/-- The state after reset holds the reset values of 10_state.md R15 and 70_reset_and_hazards.md R144, for the items that have one. -/
def Obligations.ResetStateHoldsTheResetValues : Prop :=
  State.reset.stage = .awaitLeadFall ∧ State.reset.ptr = 0 ∧ (∀ i : Fin 32, State.reset.frame[i] = false) ∧
    State.reset.rxEnable = false ∧ State.reset.wdtPending = false ∧ State.reset.dq = [] ∧
    State.reset.dqOverflow = false ∧ State.reset.txBusy = false ∧ State.reset.txIdx = 0 ∧
    State.reset.pinMode = .input ∧ State.reset.txLineLevel = .high

/-- 46_controller_facade.md R108. -/
def Obligations.StartReceiveResetsAttemptAndSubscribes : Prop :=
  ∀ s : State,
    (s.params.hasInput = true →
      exec .startReceive s = .next
        { s with stage := .awaitLeadFall, ptr := 0, frame := Vector.replicate 32 false, rxEnable := true }) ∧
    (s.params.hasInput = false → exec .startReceive s = .next (withOutput (.diag .noInputCapability) s))

/-- 46_controller_facade.md R109. -/
def Obligations.StopReceiveOnlyUnsubscribes : Prop :=
  ∀ s : State, exec .stopReceive s = .next { s with rxEnable := false }

/-! ## The edge operations -/

/-- 41_receive_state_machine.md R67; an abort is that of 60_exceptions.md R126, which on a full queue sets the overflow
mark (R114). Three clauses are the model's: the arm request recorded as an output of port `wdt_arm` (DEDUCED from
10_state.md R34, log 13), the time of the arm kept in `wdtArmedAt` (log 21), and the run's fault mark set with the
overflow mark (DEDUCED from 70_reset_and_hazards.md R157, log 22). -/
def Obligations.LeadFallOpensAnAttemptOrAborts : Prop :=
  ∀ (t : Nat) (s : State), Selected .awaitLeadFall s →
    exec (.edgeLeadfall t .low) s = .next (withOutput (.wdtArm 100000)
      { s with
        lastTs := t % 2 ^ s.params.clockBits
        frame := Vector.replicate 32 false
        ptr := 0
        wdtPending := true
        wdtDeadline := (t % 2 ^ s.params.clockBits + 100000) % 2 ^ s.params.clockBits
        wdtArmedAt := t
        stage := .awaitLeadRise }) ∧
    exec (.edgeLeadfall t .high) s = .next (aborted .levelViolation t s)

/-- 41_receive_state_machine.md R68; an abort is that of 60_exceptions.md R126, which on a full queue sets the overflow
mark (R114). The run's fault mark set with it is the model's (DEDUCED from 70_reset_and_hazards.md R157, log 22). -/
def Obligations.LeadRiseChecksTheLeadLow : Prop :=
  ∀ (t : Nat) (lvl : Level) (s : State), Selected .awaitLeadRise s →
    let delta := counterDiff s.params.clockBits t s.lastTs
    (8500 ≤ delta ∧ delta ≤ 9500 → exec (.edgeLeadrise t lvl) s = .next
      { s with lastTs := t % 2 ^ s.params.clockBits, stage := .awaitBitFall .firstBit }) ∧
    (delta < 8500 ∨ 9500 < delta → exec (.edgeLeadrise t lvl) s = .next (aborted .timingViolation t s))

/-- 41_receive_state_machine.md R69; an abort is that of 60_exceptions.md R126, which on a full queue sets the overflow
mark (R114). The run's fault mark set with it is the model's (DEDUCED from 70_reset_and_hazards.md R157, log 22). -/
def Obligations.BitFallFirstChecksTheLeadHigh : Prop :=
  ∀ (t : Nat) (lvl : Level) (s : State), Selected (.awaitBitFall .firstBit) s →
    let delta := counterDiff s.params.clockBits t s.lastTs
    (4000 ≤ delta ∧ delta ≤ 5000 → exec (.edgeBitfallFirst t lvl) s = .next
      { s with lastTs := t % 2 ^ s.params.clockBits, stage := .awaitBitRise }) ∧
    (delta < 4000 ∨ 5000 < delta → exec (.edgeBitfallFirst t lvl) s = .next (aborted .timingViolation t s))

/-- 41_receive_state_machine.md R70; an abort is that of 60_exceptions.md R126, which on a full queue sets the overflow
mark (R114). The run's fault mark set with it is the model's (DEDUCED from 70_reset_and_hazards.md R157, log 22). -/
def Obligations.BitRiseMarkChecksTheMark : Prop :=
  ∀ (t : Nat) (lvl : Level) (s : State), Selected .awaitBitRise s →
    let delta := counterDiff s.params.clockBits t s.lastTs
    (60 ≤ delta ∧ delta ≤ 1060 → exec (.edgeBitriseMark t lvl) s = .next
      { s with lastTs := t % 2 ^ s.params.clockBits, stage := .awaitBitFall .subsequentBit }) ∧
    (delta < 60 ∨ 1060 < delta → exec (.edgeBitriseMark t lvl) s = .next (aborted .timingViolation t s))

/-- 41_receive_state_machine.md R71: the space is classified, the slot at the old pointer is written and no
other, and a delta in neither window aborts (60_exceptions.md R126, on a full queue R114). The run's fault mark set with
the overflow mark is the model's (DEDUCED from 70_reset_and_hazards.md R157, log 22). -/
def Obligations.BitFallNextClassifiesTheSpace : Prop :=
  ∀ (t : Nat) (lvl : Level) (s : State), Selected (.awaitBitFall .subsequentBit) s → s.ptr ≤ 31 →
    let delta := counterDiff s.params.clockBits t s.lastTs
    (∀ b : Bool, (b = false ∧ 60 ≤ delta ∧ delta ≤ 1060) ∨ (b = true ∧ 1180 ≤ delta ∧ delta ≤ 2180) →
      ∃ f : Frame, exec (.edgeBitfallNext t lvl) s = .next
          { s with
            lastTs := t % 2 ^ s.params.clockBits
            frame := f
            ptr := s.ptr + 1
            stage := .awaitBitRise } ∧
        ∀ i : Fin 32, f[i] = if i.val = s.ptr then b else s.frame[i]) ∧
    (delta < 60 ∨ (1060 < delta ∧ delta < 1180) ∨ 2180 < delta →
      exec (.edgeBitfallNext t lvl) s = .next (aborted .timingViolation t s))

/-- 41_receive_state_machine.md R72: the terminal action queues a copy of the frame (or, on a full queue, sets the
overflow mark, 47_deferred_executor.md R114) and resets the attempt, whatever the delta. The run's fault mark set with
the overflow mark is the model's (DEDUCED from 70_reset_and_hazards.md R157, log 22). -/
def Obligations.TerminalEdgeQueuesTheFrame : Prop :=
  ∀ (t : Nat) (lvl : Level) (s : State), SelectedTerm s →
    exec (.edgeBitriseTerm t lvl) s = .next
      { s with
        lastTs := t % 2 ^ s.params.clockBits
        dq := if HasRoom s then s.dq ++ [.validate s.frame] else s.dq
        dqOverflow := if HasRoom s then s.dqOverflow else true
        faulted := if HasRoom s then s.faulted else true
        stage := .awaitLeadFall
        ptr := 0
        frame := Vector.replicate 32 false }

/-- 41_receive_state_machine.md R64: the other five edge operations do not read the level. -/
def Obligations.OnlyTheOpeningEdgeReadsTheLevel : Prop :=
  ∀ (t : Nat) (s : State),
    exec (.edgeLeadrise t .low) s = exec (.edgeLeadrise t .high) s ∧
    exec (.edgeBitfallFirst t .low) s = exec (.edgeBitfallFirst t .high) s ∧
    exec (.edgeBitriseMark t .low) s = exec (.edgeBitriseMark t .high) s ∧
    exec (.edgeBitfallNext t .low) s = exec (.edgeBitfallNext t .high) s ∧
    exec (.edgeBitriseTerm t .low) s = exec (.edgeBitriseTerm t .high) s

/-- An edge operation is stuck where the dispatch key of 30_encoding.md R56 does not select it (the model's
form of that rule, log 11). -/
def Obligations.EdgeOperationsRunOnlyWhenSelected : Prop :=
  ∀ (t : Nat) (lvl : Level) (s : State),
    (¬Selected .awaitLeadFall s → exec (.edgeLeadfall t lvl) s = .fault .notSelected) ∧
    (¬Selected .awaitLeadRise s → exec (.edgeLeadrise t lvl) s = .fault .notSelected) ∧
    (¬Selected (.awaitBitFall .firstBit) s → exec (.edgeBitfallFirst t lvl) s = .fault .notSelected) ∧
    (¬Selected .awaitBitRise s → exec (.edgeBitriseMark t lvl) s = .fault .notSelected) ∧
    (¬Selected (.awaitBitFall .subsequentBit) s → exec (.edgeBitfallNext t lvl) s = .fault .notSelected) ∧
    (¬SelectedTerm s → exec (.edgeBitriseTerm t lvl) s = .fault .notSelected)

/-- 41_receive_state_machine.md R66: an edge while unsubscribed changes no register, `last_ts` included, and makes no
output. That it leaves the script (log 3), that the global time becomes its time (00_scope.md R8, log 7), and that it
comes on time (log 7, log 8, log 9) are the model's. Also the model's: the kept times of the arm and of the SEND
(log 21). -/
def Obligations.UnsubscribedEdgeChangesNoRegister : Prop :=
  ∀ (t : Nat) (lvl : Level) (rest : List Item) (s : State),
    s.script = .event (.edge t lvl) :: rest → OnTime t s → s.rxEnable = false →
    step s = .next { s with script := rest, tau := t }

/-! ## The watchdog -/

/-- 44_receive_watchdog.md R91: where the expiry is enabled, an attempt in progress is reset as a Timeout and an idle
receiver only loses the pending mark. The enabling premises are the model's form of R90's window (log 8): the counter
difference to `wdt_deadline`, and the global times since the arm (log 21). The run's fault mark set with the overflow
mark is the model's (DEDUCED from 70_reset_and_hazards.md R157, log 22). -/
def Obligations.WatchdogExpiryEndsTheAttempt : Prop :=
  ∀ (t : Nat) (s : State), s.wdtPending = true →
    counterDiff s.params.clockBits t s.wdtDeadline ≤ s.params.wdtLatencyMax →
    s.wdtArmedAt ≤ t → t ≤ s.wdtArmedAt + 100000 + s.params.wdtLatencyMax →
    (s.stage ≠ .awaitLeadFall → exec (.wdtExpire t) s = .next
      { s with
        wdtPending := false
        stage := .awaitLeadFall
        ptr := 0
        frame := Vector.replicate 32 false
        dq := if HasRoom s then s.dq ++ [.diag .timeout] else s.dq
        dqOverflow := if HasRoom s then s.dqOverflow else true
        faulted := if HasRoom s then s.faulted else true }) ∧
    (s.stage = .awaitLeadFall → exec (.wdtExpire t) s = .next { s with wdtPending := false })

/-- 93_implementation_defined.md U18 and 44_receive_watchdog.md R90: an expiry that is not pending, or lies outside
its window, is not enabled. Also the model's: the kept times of the arm and of the SEND (log 21). -/
def Obligations.WatchdogExpiryIsStuckOutsideItsWindow : Prop :=
  ∀ (t : Nat) (s : State),
    (s.wdtPending = false → exec (.wdtExpire t) s = .fault .expiryNotPending) ∧
    (s.wdtPending = true → s.params.wdtLatencyMax < counterDiff s.params.clockBits t s.wdtDeadline ∨
        t < s.wdtArmedAt ∨ s.wdtArmedAt + 100000 + s.params.wdtLatencyMax < t →
      exec (.wdtExpire t) s = .fault .expiryOutsideWindow)

/-- 44_receive_watchdog.md R90 and 45_transmit_encoder.md R104, in global time: a pending expiry runs exactly from
`T_WDT` to `T_WDT + WDT_LATENCY_MAX` after its arm, and toggle `k` exactly from `O[k]` to `O[k] + TX_LATENCY_MAX`
after the SEND, so that no wrap of the counter admits another time. `ClockInv` and `WidthInv` are invariants of the
step (StepKeepsTheDeadlines, StepKeepsWidthsAndQueueItems); the other engine's event is not overdue (log 8, log 9).
Also the model's: the script (log 3) and the kept times of the arm and of the SEND (log 21). -/
def Obligations.ExpiryAndToggleRunExactlyInTheirWindows : Prop :=
  ∀ (t : Nat) (rest : List Item) (s : State), s.params.Ok → ClockInv s → WidthInv s → s.tau ≤ t →
    (s.script = .event (.wdt t) :: rest → s.wdtPending = true →
      (∀ k : Fin 67, s.txBusy = true → s.txIdx = k.val →
        t ≤ s.txStartedAt + s.txOff[k] + s.params.txLatencyMax) →
      ((∃ s', step s = .next s') ↔
        s.wdtArmedAt + 100000 ≤ t ∧ t ≤ s.wdtArmedAt + 100000 + s.params.wdtLatencyMax)) ∧
    ∀ k : Fin 67, s.script = .event (.txt t) :: rest → s.txBusy = true → s.txIdx = k.val →
      (s.wdtPending = true → t ≤ s.wdtArmedAt + 100000 + s.params.wdtLatencyMax) →
      ((∃ s', step s = .next s') ↔
        s.txStartedAt + s.txOff[k] ≤ t ∧ t ≤ s.txStartedAt + s.txOff[k] + s.params.txLatencyMax)

/-- 44_receive_watchdog.md R92: no operation but the expiry itself and RESET takes a pending expiry away, and only
the arm step of an accepted opening edge moves its deadline and the time of its arm (the kept time is the model's,
log 21). -/
def Obligations.NothingCancelsAPendingExpiry : Prop :=
  ∀ (i : Instr) (s t : State), exec i s = .next t → s.wdtPending = true →
    i ≠ .reset → (∀ n, i ≠ .wdtExpire n) →
    t.wdtPending = true ∧
      (t.wdtDeadline ≠ s.wdtDeadline ∨ t.wdtArmedAt ≠ s.wdtArmedAt → ∃ n, i = .edgeLeadfall n .low)

/-! ## The deferred queue -/

/-- 47_deferred_executor.md R115: the head is removed and exactly one output results, a callback with the two
fields when both complement pairs hold (43_frame_validator.md R84), else a ChecksumFailure. -/
def Obligations.ValidateItemCallsBackOrDiscards : Prop :=
  ∀ (f : Frame) (rest : List WorkItem) (s : State), s.dq = .validate f :: rest →
    (∀ user data, validateFrame f = .valid user data →
      exec .dqRunValidate s = .next (withOutput (.callback user data) { s with dq := rest })) ∧
    (validateFrame f = .invalid →
      exec .dqRunValidate s = .next (withOutput (.diag .checksumFailure) { s with dq := rest }))

/-- 47_deferred_executor.md R116. -/
def Obligations.DiagItemEmitsItsKind : Prop :=
  ∀ (kind : DiagKind) (rest : List WorkItem) (s : State), s.dq = .diag kind :: rest →
    exec .dqRunDiag s = .next (withOutput (.diag kind) { s with dq := rest })

/-- 93_implementation_defined.md U18: a DQ.RUN on an empty queue, or on a head of the other kind, is not enabled. -/
def Obligations.QueueRunIsStuckWithoutItsItem : Prop :=
  ∀ s : State,
    (s.dq = [] → exec .dqRunValidate s = .fault .queueEmpty ∧ exec .dqRunDiag s = .fault .queueEmpty) ∧
    (∀ f rest, s.dq = .validate f :: rest → exec .dqRunDiag s = .fault .queueHeadOther) ∧
    (∀ kind rest, s.dq = .diag kind :: rest → exec .dqRunValidate s = .fault .queueHeadOther)

/-- 47_deferred_executor.md R117 and R118: the queue changes only at its ends. An operation leaves it alone, adds
one item at the tail, is RESET, or is the DQ.RUN of the item it removes from the head. -/
def Obligations.QueueIsFirstInFirstOut : Prop :=
  ∀ (i : Instr) (s t : State), exec i s = .next t →
    t.dq = s.dq ∨ (∃ x, t.dq = s.dq ++ [x] ∧ inInterruptContext i = true) ∨ i = .reset ∨
      (∃ f, i = .dqRunValidate ∧ s.dq = .validate f :: t.dq) ∨ ∃ kind, i = .dqRunDiag ∧ s.dq = .diag kind :: t.dq

/-- 10_state.md R24: the overflow mark is sticky; no step but a RESET clears it. -/
def Obligations.OverflowMarkIsSticky : Prop :=
  ∀ (i : Instr) (s t : State), exec i s = .next t → i ≠ .reset → s.dqOverflow = true → t.dqOverflow = true

/-- 47_deferred_executor.md R114 and 10_state.md R24: an operation sets the overflow mark exactly when it is one of
the interrupt context that finds the queue full; then it drops its item and the run is faulted
(70_reset_and_hazards.md R157, log 22). -/
def Obligations.OverflowMarkMeansAFullQueue : Prop :=
  ∀ (i : Instr) (s t : State), exec i s = .next t → s.dqOverflow = false → t.dqOverflow = true →
    inInterruptContext i = true ∧ ¬HasRoom s ∧ t.dq = s.dq ∧ t.faulted = true

/-! ## The transmitter -/

/-- 45_transmit_encoder.md R101: all of SEND is one step; the offset table is that of `tx_schedule`. Its time kept in
`txStartedAt` is the model's (log 21). -/
def Obligations.SendStartsATransmission : Prop :=
  ∀ (t user data : Nat) (s : State), s.params.hasOutput = true → s.txBusy = false → user ≤ 255 → data ≤ 255 →
    ∃ off : Vector Nat 67, off.toList = (txSchedule user data).offsets ∧
      exec (.send t user data) s = .next (withOutput (.txLine (.driven .low))
        { s with
          txOff := off
          txT0 := t % 2 ^ s.params.clockBits
          txStartedAt := t
          txIdx := 0
          pinLevel := .low
          pinMode := .output
          txBusy := true })

/-- 46_controller_facade.md R110: `send` is refused exactly in the three cases, whatever the receiver does. -/
def Obligations.SendIsRefusedExactlyInThreeCases : Prop :=
  ∀ (t user data : Nat) (s : State),
    (∃ r, exec (.send t user data) s = .refused r) ↔
      s.params.hasOutput = false ∨ s.txBusy = true ∨ 255 < user ∨ 255 < data

/-- 45_transmit_encoder.md R102 within the bound of R104, which is in global time: the pin is toggled and the index
moves on (the bound as part of enabling is the model's, log 9). Also the model's: the kept times of the arm and of the
SEND (log 21). -/
def Obligations.ToggleFlipsThePin : Prop :=
  ∀ (t : Nat) (k : Fin 67) (s : State), s.txBusy = true → s.txIdx = k.val →
    s.txOff[k] ≤ counterDiff s.params.clockBits t s.txT0 → s.txStartedAt ≤ t →
    t ≤ s.txStartedAt + s.txOff[k] + s.params.txLatencyMax →
    exec (.txToggle t) s = .next (withOutput (.txLine (.driven s.pinLevel.flip))
      { s with pinLevel := s.pinLevel.flip, txIdx := k.val + 1 })

/-- 93_implementation_defined.md U18 and 45_transmit_encoder.md R102, R104: a toggle with no transmission in progress,
after the last boundary, before its offset or its SEND, or later than the bound, is not enabled. Also the model's: the
kept times of the arm and of the SEND (log 21). -/
def Obligations.ToggleIsStuckWhenNotDue : Prop :=
  ∀ (t : Nat) (s : State),
    (s.txBusy = false ∨ 67 ≤ s.txIdx → exec (.txToggle t) s = .fault .toggleNotEnabled) ∧
    (∀ k : Fin 67, s.txBusy = true → s.txIdx = k.val →
      (counterDiff s.params.clockBits t s.txT0 < s.txOff[k] ∨ t < s.txStartedAt →
        exec (.txToggle t) s = .fault .toggleNotEnabled) ∧
      (s.txOff[k] ≤ counterDiff s.params.clockBits t s.txT0 → s.txStartedAt + s.txOff[k] + s.params.txLatencyMax < t →
        exec (.txToggle t) s = .fault .toggleTooLate))

/-- 45_transmit_encoder.md R103: enabled when busy with all 67 boundaries done, and stuck otherwise. -/
def Obligations.ReleaseFreesThePin : Prop :=
  ∀ (t : Nat) (s : State),
    (s.txBusy = true ∧ s.txIdx = 67 → exec (.txRelease t) s = .next (withOutput (.txLine .released)
      { s with pinMode := .input, txIdx := 0, txBusy := false })) ∧
    (s.txBusy = false ∨ s.txIdx ≠ 67 → exec (.txRelease t) s = .fault .releaseNotEnabled)

/-- 45_transmit_encoder.md R106: while busy, no operation but TX.TOGGLE, TX.RELEASE and RESET changes the
transmitter's registers, nor the kept time of its SEND (the model's, log 21). -/
def Obligations.TransmissionCannotBeDisturbed : Prop :=
  ∀ (i : Instr) (s t : State), exec i s = .next t → s.txBusy = true → i ≠ .reset →
    (∀ n, i ≠ .txToggle n) → (∀ n, i ≠ .txRelease n) → SameTransmitter s t

/-! ## Pure functions and the frame on the wire -/

/-- 42_bit_codec.md R79, R80, 43_frame_validator.md R84, 45_transmit_encoder.md R100, 41_receive_state_machine.md R61:
a pure function writes no register; the value it returns is recorded (the model's record, log 6). -/
def Obligations.PureFunctionsWriteNoRegister : Prop :=
  ∀ s : State,
    (∀ seq, exec (.bitsToInt seq) s = .next (withOutput (.returned (.nat (bitsToInt seq))) s)) ∧
    (∀ v n, exec (.intToBits v n) s = .next (withOutput (.returned (.bits (intToBits v n))) s)) ∧
    (∀ f, exec (.validateFrame f) s = .next (withOutput (.returned (.verdict (validateFrame f))) s)) ∧
    (∀ u d, exec (.txSchedule u d) s = .next (withOutput (.returned (.schedule (txSchedule u d))) s)) ∧
    (∀ d n, exec (.within d n) s = .next (withOutput (.returned (.bool (within d n))) s))

/-- 30_encoding.md R50 and R59: a frame on the line is 68 edges, the first falling, then alternating, edge `k` at the
sum of the first `k` durations after the opening (the model's meaning of the FRAME row, log 5). Also the model's: the
script (log 3). -/
def Obligations.FrameOnTheLineIsSixtyEightEdges : Prop :=
  ∀ (t0 : Nat) (u uc d dc : Byte) (s : State), ∃ es : List Event,
    exec (.frame t0 u uc d dc) s = .next { s with script := es.map .event ++ s.script } ∧ es.length = 68 ∧
      ∀ k < 68, es[k]? = some (.edge (t0 + ((durations (fieldsToBits u uc d dc)).take k).sum)
        (if k % 2 = 0 then .low else .high))

/-- 41_receive_state_machine.md R61. -/
def Obligations.AcceptTestIsTheClosedWindow : Prop :=
  ∀ d n : Nat, within d n = true ↔ |(d : Int) - (n : Int)| ≤ 500

/-- 42_bit_codec.md R81, its five laws. -/
def Obligations.CodecLaws : Prop :=
  (∀ v n : Nat, bitsToInt (intToBits v n) = v % 2 ^ n) ∧
  (∀ s : List Bool, intToBits (bitsToInt s) s.length = s) ∧
  (∀ s1 s2 : List Bool, bitsToInt (s1 ++ s2) = bitsToInt s1 * 2 ^ s2.length + bitsToInt s2) ∧
  (∀ v n : Nat, (intToBits v n).length = n) ∧
  (∀ v n : Nat, v < 2 ^ n → intToBits (v ^^^ (2 ^ n - 1)) n = (intToBits v n).map not) ∧
  ∀ v : Nat, intToBits (v ^^^ 0xFF) 8 = (intToBits v 8).map not

/-- 42_bit_codec.md R80: exactly `length` bits, and the closed form: element `j` is bit `length - 1 - j` of the
value. -/
def Obligations.IntToBitsClosedForm : Prop :=
  ∀ v n : Nat, (intToBits v n).length = n ∧
    ∀ j < n, (intToBits v n)[j]? = some (decide (v >>> (n - 1 - j) &&& 1 = 1))

/-- 43_frame_validator.md R85: a frame is valid exactly when each complement slot is the negation of its slot, and
exactly one frame is valid for each pair `(user, data)`. -/
def Obligations.ValidFramesAreTheComplementPairs : Prop :=
  (∀ a b : Byte, (a ^^^ b = 0xFF ↔ b.toNat = 255 - a.toNat) ∧ (a ^^^ b = 0xFF ↔ a.toNat + b.toNat = 255) ∧
    (a ^^^ b = 0xFF ↔ ∀ j < 8, b.getLsbD j = !a.getLsbD j)) ∧
  (∀ f : Frame, validateFrame f ≠ .invalid ↔
    ∀ i : Fin 8, f[i.val + 8] = (!f[i.val]) ∧ f[i.val + 24] = (!f[i.val + 16])) ∧
  ∀ user data : Byte, ∃! f : Frame, validateFrame f = .valid user data

/-- 45_transmit_encoder.md R97: the 67 durations of a transmission. -/
def Obligations.DurationsFollowTheSlots : Prop :=
  ∀ user data : Nat, let b := (txSchedule user data).bits; let D := (txSchedule user data).durations
    b.length = 32 ∧ D.length = 67 ∧ D[0]? = some 9000 ∧ D[1]? = some 4500 ∧ D[66]? = some 560 ∧
      ∀ i < 32, D[2 + 2 * i]? = some 560 ∧
        D[3 + 2 * i]? = some (if b.getD i false then 1680 else 560)

/-- 45_transmit_encoder.md R98: the offsets are the prefix sums of the durations and strictly increase. -/
def Obligations.OffsetsArePrefixSums : Prop :=
  ∀ user data : Nat, let D := (txSchedule user data).durations; let O := (txSchedule user data).offsets
    O.length = 67 ∧ (∀ k < 67, O[k]? = some ((D.take (k + 1)).sum)) ∧ O[0]? = some 9000 ∧ O[1]? = some 13500 ∧
      O.Pairwise (· < ·)

/-- 45_transmit_encoder.md R99 and R100: the two last offsets of a valid frame's transmission, the bound for any 32
slots, and the truncation of operands above 255. -/
def Obligations.ScheduleSizesAndTruncation : Prop :=
  (∀ user data : Nat, (txSchedule user data).offsets[65]? = some 67260 ∧
    (txSchedule user data).offsets[66]? = some 67820) ∧
  (∀ bits : List Bool, bits.length = 32 → ∀ o ∈ offsets bits, o ≤ 85740 ∧ o < 2 ^ 17) ∧
  ∀ user data : Nat, txSchedule user data = txSchedule (user % 256) (data % 256)

/-- 30_encoding.md R51: the length of a frame by its number of 1 slots; 67 820 for every valid frame, and the two
extremes. -/
def Obligations.FrameLengthCountsTheOnes : Prop :=
  (∀ bits : List Bool, bits.length = 32 →
    (durations bits).sum = 13500 + 33 * 560 + 560 * (32 - bits.count true) + 1680 * bits.count true ∧
      49900 ≤ (durations bits).sum ∧ (durations bits).sum ≤ 85740) ∧
  ∀ f : Frame, validateFrame f ≠ .invalid →
    f.toList.count true = 16 ∧ (durations f.toList).sum = 67820

/-! ## Dispatch and the step -/

/-- 30_encoding.md R56: the operation an event at the head of the script selects runs from the state with the event
taken and the time moved on, when the event comes on time (00_scope.md R8, R90, R104; log 7, log 8, log 9). Also the
model's: the script (log 3) and the kept times of the arm and of the SEND (log 21). -/
def Obligations.EventRunsTheOperationItsKeySelects : Prop :=
  ∀ (s : State) (e : Event) (rest : List Item), s.script = .event e :: rest →
    (∀ t, e.time = some t → OnTime t s) →
    let s1 : State := { s with script := rest, tau := e.time.getD s.tau }
    (e = .reset → step s = exec .reset s1) ∧
    (e = .start → step s = exec .startReceive s1) ∧
    (e = .stop → step s = exec .stopReceive s1) ∧
    (∀ t u d, e = .send t u d → step s = exec (.send t u d) s1) ∧
    (∀ t l, e = .edge t l →
      (Selected .awaitLeadFall s → step s = exec (.edgeLeadfall t l) s1) ∧
      (Selected .awaitLeadRise s → step s = exec (.edgeLeadrise t l) s1) ∧
      (Selected (.awaitBitFall .firstBit) s → step s = exec (.edgeBitfallFirst t l) s1) ∧
      (Selected (.awaitBitFall .subsequentBit) s → step s = exec (.edgeBitfallNext t l) s1) ∧
      (Selected .awaitBitRise s → step s = exec (.edgeBitriseMark t l) s1) ∧
      (SelectedTerm s → step s = exec (.edgeBitriseTerm t l) s1)) ∧
    (∀ t, e = .wdt t → step s = exec (.wdtExpire t) s1) ∧
    (e = .run → (∀ f q, s.dq = .validate f :: q → step s = exec .dqRunValidate s1) ∧
      ∀ k q, s.dq = .diag k :: q → step s = exec .dqRunDiag s1) ∧
    (∀ t, e = .txt t → step s = exec (.txToggle t) s1) ∧
    (∀ t, e = .txr t → step s = exec (.txRelease t) s1)

/-- A step runs the decoded operation: when the word at the head of the script decodes to `i`, the step is `exec i` at
the state with the word taken and the time moved on, when its time is on time (the model's form of a fetch, log 3,
log 4). Also the model's: the global time (log 7), the bound of an expiry (log 8), the bound of a toggle (log 9) and
the kept times of the arm and of the SEND (log 21). -/
def Obligations.StepRunsTheDecodedWord : Prop :=
  ∀ (s : State) (fmt : Format) (bytes tail : List Byte) (rest : List Item) (i : Instr),
    s.script = .word fmt bytes :: rest → decode fmt bytes = .ok (i, tail) → (∀ t, i.time = some t → OnTime t s) →
    step s = exec i { s with script := rest, tau := i.time.getD s.tau }

/-- Where a step does not run an operation: an exhausted script leaves the block as it is (70_reset_and_hazards.md
R157, log 3); an event or a word whose time is before the global time is stuck (00_scope.md R8, log 7), and so is one
later than the latest time of a pending expiry (44_receive_watchdog.md R90, log 8) or else of the next toggle
(45_transmit_encoder.md R104, log 9); a word without a row is refused by name (log 4), and a RUN with nothing queued
is stuck (93_implementation_defined.md U18). Also the model's: the kept times of the arm and of the SEND (log 21). -/
def Obligations.StepWithoutAnOperation : Prop :=
  ∀ s : State,
    (s.script = [] → step s = .next s) ∧
    (∀ t, HeadAt t s →
      (t < s.tau → step s = .fault .timeRunsBack) ∧
      (s.tau ≤ t → s.wdtPending = true → s.wdtArmedAt + 100000 + s.params.wdtLatencyMax < t →
        step s = .fault .expiryOverdue) ∧
      ∀ k : Fin 67, s.tau ≤ t → (s.wdtPending = true → t ≤ s.wdtArmedAt + 100000 + s.params.wdtLatencyMax) →
        s.txBusy = true → s.txIdx = k.val → s.txStartedAt + s.txOff[k] + s.params.txLatencyMax < t →
        step s = .fault .toggleOverdue) ∧
    (∀ fmt bytes rest err, s.script = .word fmt bytes :: rest → decode fmt bytes = .error err →
      step s = .refused (.undecodable err)) ∧
    ∀ rest, s.script = .event .run :: rest → s.dq = [] → step s = .fault .queueEmpty

/-- 30_encoding.md R56 and spec/opcode_table.json: each of the twenty keys, with zero operands, decodes to its row,
every other byte is refused, and the frame word of 95_test_vectors.md section 1.1 decodes to its four fields (the zero
operands and the opening time 0 are the model's, log 4). -/
def Obligations.TableWordsDecodeToTheirRows : Prop :=
  decodeTableWord 8 0x00 = some .reset ∧ decodeTableWord 8 0x10 = some .startReceive ∧
    decodeTableWord 8 0x20 = some .stopReceive ∧ decodeTableWord 8 0x30 = some (.send 0 0 0) ∧
    decodeTableWord 8 0x40 = some (.edgeLeadfall 0 .low) ∧ decodeTableWord 8 0x42 = some (.edgeLeadrise 0 .low) ∧
    decodeTableWord 8 0x44 = some (.edgeBitfallFirst 0 .low) ∧
    decodeTableWord 8 0x46 = some (.edgeBitfallNext 0 .low) ∧
    decodeTableWord 8 0x48 = some (.edgeBitriseMark 0 .low) ∧
    decodeTableWord 8 0x49 = some (.edgeBitriseTerm 0 .low) ∧ decodeTableWord 8 0x50 = some (.wdtExpire 0) ∧
    decodeTableWord 8 0x60 = some .dqRunValidate ∧ decodeTableWord 8 0x61 = some .dqRunDiag ∧
    decodeTableWord 8 0x70 = some (.txToggle 0) ∧ decodeTableWord 8 0x80 = some (.txRelease 0) ∧
    decodeTableWord 8 0xF0 = some (.bitsToInt []) ∧ decodeTableWord 8 0xF1 = some (.intToBits 0 0) ∧
    decodeTableWord 8 0xF2 = some (.validateFrame (Vector.replicate 32 false)) ∧
    decodeTableWord 8 0xF3 = some (.txSchedule 0 0) ∧ decodeTableWord 8 0xF4 = some (.within 0 0) ∧
    decodeTableWord 32 0x04FBA659 = some (.frame 0 0x04 0xFB 0xA6 0x59) ∧
    ∀ b : Byte, b ∉ ([0x00, 0x10, 0x20, 0x30, 0x40, 0x42, 0x44, 0x46, 0x48, 0x49] : List Byte) →
      b ∉ ([0x50, 0x60, 0x61, 0x70, 0x80, 0xF0, 0xF1, 0xF2, 0xF3, 0xF4] : List Byte) →
      decodeTableWord 8 b.toNat = none

/-- Decode and encode agree: every well-formed operation, with every operand its encoding admits, is read back from
its bytes, whatever follows them (the operand bytes are the model's, log 4). -/
def Obligations.DecodeOfEncodeIsTheOperation : Prop :=
  ∀ (i : Instr) (rest : List Byte), i.WellFormed → decode i.format (encode i ++ rest) = .ok (i, rest)

/-- Nothing decodes but encodings: bytes the decoder accepts begin with the encoding of the well-formed operation it
answers (log 4). -/
def Obligations.OnlyEncodingsDecode : Prop :=
  ∀ (fmt : Format) (bytes rest : List Byte) (i : Instr), decode fmt bytes = .ok (i, rest) →
    i.format = fmt ∧ i.WellFormed ∧ bytes = encode i ++ rest

/-! ## Whole-machine rules -/

/-- 10_state.md R31: the receiver's seven invariants hold after RESET, whatever the state before it, and every step
keeps them. -/
def Obligations.StepKeepsTheReceiverInvariants : Prop :=
  (∀ s s' : State, exec .reset s = .next s' → RxInv s') ∧
    ∀ s s' : State, RxInv s → step s = .next s' → RxInv s'

/-- 10_state.md R32: every step keeps the transmitter's invariants. After a RESET operation, item 3 rests on the
value the model gives the unspecified offset table (DESIGN CHOICE, log 2). -/
def Obligations.StepKeepsTheTransmitterInvariants : Prop :=
  ∀ s s' : State, TxInv s → step s = .next s' → TxInv s'

/-- 44_receive_watchdog.md R90, R94 and 45_transmit_encoder.md R104: no step takes the time past the latest time of a
pending expiry or of the next toggle, so an attempt in progress is never older than `T_WDT + WDT_LATENCY_MAX`. The
times of the arm and of the SEND are fields of the model (log 21). Also the model's: the bound of an expiry (log 8)
and the bound of a toggle (log 9). -/
def Obligations.StepKeepsTheDeadlines : Prop :=
  ∀ s s' : State, RxInv s → TxInv s → ClockInv s → step s = .next s' →
    ClockInv s' ∧ (s'.stage ≠ .awaitLeadFall → s'.tau ≤ s'.wdtArmedAt + 100000 + s'.params.wdtLatencyMax)

/-- The invariants hold in the reset state: 10_state.md R31, R32, the widths of R15 and R25, the queue and the fault
mark, and the deadlines. The offset table and the unspecified registers are the model's (DESIGN CHOICE, log 2). Also
the model's: the bound of an expiry (log 8), the bound of a toggle (log 9), the kept times of the arm and of the SEND
(log 21) and the run's fault mark (log 22). -/
def Obligations.InvariantsHoldAtReset : Prop :=
  RxInv State.reset ∧ TxInv State.reset ∧ WidthInv State.reset ∧ QueueInv State.reset ∧ ClockInv State.reset

/-- 10_state.md R15, R23 and R25, 70_reset_and_hazards.md R157: every step keeps the counter registers below `2^W`, the
offsets at most 85 740, the queue to the items it may hold, and the fault mark beside the overflow mark (log 22).
After a RESET the unspecified registers are the model's choice (log 2). -/
def Obligations.StepKeepsWidthsAndQueueItems : Prop :=
  ∀ s s' : State, WidthInv s → QueueInv s → step s = .next s' → WidthInv s' ∧ QueueInv s'

/-- 70_reset_and_hazards.md R146, R157 and 00_scope.md R8: no step changes the platform's parameters, the time never
decreases, what has left the block stays left, and a faulted run stays faulted, over a RESET too (log 1, log 7,
log 12, log 22). -/
def Obligations.ParametersStayAndTimeNeverDecreases : Prop :=
  ∀ s s' : State, step s = .next s' →
    s'.params = s.params ∧ s.tau ≤ s'.tau ∧ (∃ out, s'.trace = s.trace ++ out) ∧
      (s.faulted = true → s'.faulted = true)

/-- 41_receive_state_machine.md R73, the table of every control transfer: where each operation leaves `stage`. -/
def Obligations.StageMovesOnlyByTheTable : Prop :=
  ∀ (i : Instr) (s t : State), exec i s = .next t →
    let inWindow (n lo hi : Nat) : Prop :=
      lo ≤ counterDiff s.params.clockBits n s.lastTs ∧ counterDiff s.params.clockBits n s.lastTs ≤ hi
    match i with
    | .edgeLeadfall _ lvl => s.stage = .awaitLeadFall ∧
        ((lvl = .low ∧ t.stage = .awaitLeadRise) ∨ (lvl = .high ∧ t.stage = .awaitLeadFall))
    | .edgeLeadrise n _ => s.stage = .awaitLeadRise ∧
        ((inWindow n 8500 9500 ∧ t.stage = .awaitBitFall .firstBit) ∨
          (¬inWindow n 8500 9500 ∧ t.stage = .awaitLeadFall))
    | .edgeBitfallFirst n _ => s.stage = .awaitBitFall .firstBit ∧
        ((inWindow n 4000 5000 ∧ t.stage = .awaitBitRise) ∨
          (¬inWindow n 4000 5000 ∧ t.stage = .awaitLeadFall))
    | .edgeBitriseMark n _ => s.stage = .awaitBitRise ∧ s.ptr ≠ 32 ∧
        ((inWindow n 60 1060 ∧ t.stage = .awaitBitFall .subsequentBit) ∨
          (¬inWindow n 60 1060 ∧ t.stage = .awaitLeadFall))
    | .edgeBitriseTerm _ _ => s.stage = .awaitBitRise ∧ s.ptr = 32 ∧ t.stage = .awaitLeadFall
    | .edgeBitfallNext n _ => s.stage = .awaitBitFall .subsequentBit ∧
        (((inWindow n 60 1060 ∨ inWindow n 1180 2180) ∧ t.stage = .awaitBitRise) ∨
          (¬inWindow n 60 1060 ∧ ¬inWindow n 1180 2180 ∧ t.stage = .awaitLeadFall))
    | .wdtExpire _ | .reset => t.stage = .awaitLeadFall
    | .startReceive => t.stage = if s.params.hasInput then .awaitLeadFall else s.stage
    | _ => t.stage = s.stage

/-- 20_memory.md R42 item 7 and 46_controller_facade.md R112: the transmitter's operations leave the receiver, the
watchdog and the queue alone, and no other operation but RESET touches the transmitter. Also the model's: the kept
times of the arm and of the SEND (log 21) and the run's fault mark (log 22). -/
def Obligations.ReceiverAndTransmitterShareNothing : Prop :=
  ∀ (i : Instr) (s t : State), exec i s = .next t → i ≠ .reset →
    (ofTransmitter i = true → SameReceiver s t ∧ SameQueue s t) ∧
    (ofTransmitter i = false → SameTransmitter s t)

/-- 60_exceptions.md R133: an operation of the interrupt context makes no observable output, and one of the deferred
context touches no register but the queue. Also the model's: the kept times of the arm and of the SEND (log 21) and
the run's fault mark (log 22). -/
def Obligations.ContextsKeepToTheirOwn : Prop :=
  ∀ (i : Instr) (s t : State), exec i s = .next t →
    (inInterruptContext i = true → t.observed = s.observed ∧ SameTransmitter s t ∧ t.rxEnable = s.rxEnable) ∧
    (i = .dqRunValidate ∨ i = .dqRunDiag →
      SameReceiver s t ∧ SameTransmitter s t ∧ t.dqOverflow = s.dqOverflow ∧ t.faulted = s.faulted)

/-- 46_controller_facade.md R111 and 43_frame_validator.md R86: a callback leaves the block only from
DQ.RUN.VALIDATE, for the head item, and only when both complement pairs of its copy hold. -/
def Obligations.CallbackOnlyForAValidFrame : Prop :=
  ∀ (i : Instr) (s t : State) (e : Emission) (user data : Byte), exec i s = .next t →
    e ∈ t.trace.drop s.trace.length → e.what = .callback user data →
    i = .dqRunValidate ∧ ∃ f, s.dq = .validate f :: t.dq ∧ field f 0 = user ∧ field f 2 = data ∧
      field f 0 ^^^ field f 1 = 0xFF ∧ field f 2 ^^^ field f 3 = 0xFF

/-- 41_receive_state_machine.md R74: whenever an edge or an expiry leaves the receiver idle, the pointer is 0 and the
very next low edge that comes on time, whatever its delta, opens an attempt with a clear frame and a fresh watchdog.
The model's, not R74's: the clause that `wdtArmedAt` is the edge's time (log 21), and the premise of coming on time,
the global time's order (log 7) and the bounds of an expiry (log 8) and of a toggle (log 9). Also the model's: the
script (log 3). -/
def Obligations.RecoveryAfterEveryAbort : Prop :=
  ∀ (i : Instr) (s t : State) (n : Nat) (rest : List Item), RxInv s → inInterruptContext i = true →
    exec i s = .next t → t.stage = .awaitLeadFall → t.rxEnable = true → OnTime n t →
    t.ptr = 0 ∧ ∃ t', step { t with script := .event (.edge n .low) :: rest } = .next t' ∧
      t'.stage = .awaitLeadRise ∧ t'.ptr = 0 ∧ (∀ j : Fin 32, t'.frame[j] = false) ∧ t'.wdtPending = true ∧
      t'.wdtDeadline = (n % 2 ^ t.params.clockBits + 100000) % 2 ^ t.params.clockBits ∧ t'.wdtArmedAt = n

/-- 41_receive_state_machine.md R62 and 70_reset_and_hazards.md R153: the wrap-safe delta of two times less than
one counter period apart is the real time between them. -/
def Obligations.WrapSafeDeltaIsTheRealTime : Prop :=
  ∀ (t0 t : Nat) (s : State), s.lastTs = t0 % 2 ^ s.params.clockBits → t0 ≤ t →
    t < t0 + 2 ^ s.params.clockBits → edgeDelta t s = t - t0

/-- 41_receive_state_machine.md R76: for every pair `(user, data)`, the 68 edges of its frame, every duration within
`TOL` of its nominal and the whole below `T_WDT`, then one RUN, give exactly one observable output, the callback with
that pair; the receiver is idle again and the queue empty. An earlier attempt's expiry is not overdue at the opening
edge, nor a toggle of a transmission in progress at the last (log 8, log 9). Also the model's: the script (log 3), the
global time (log 7), the kept times of the arm and of the SEND (log 21) and the run's fault mark (log 22). -/
def Obligations.EveryFrameRoundTrips : Prop :=
  ∀ (user data : Byte) (ds : List Nat) (t0 : Nat) (s : State), s.params.Ok → s.rxEnable = true →
    s.stage = .awaitLeadFall → s.ptr = 0 → s.dq = [] → OnTime t0 s → ds.length = 67 →
    (∀ k : Fin 67, s.txBusy = true → s.txIdx = k.val →
      t0 + ds.sum ≤ s.txStartedAt + s.txOff[k] + s.params.txLatencyMax) →
    (∀ k < 67, within (ds.getD k 0) ((txSchedule user.toNat data.toNat).durations.getD k 0) = true) →
    ds.sum < 100000 → s.script = (wave t0 ds).map .event ++ [.event .run] →
    ∃ t, Host.Core.run core 69 s = .next t ∧
      t.observed = s.observed ++ [⟨t0 + ds.sum, .callback user data⟩] ∧
      t.dq = [] ∧ t.dqOverflow = s.dqOverflow ∧ t.faulted = s.faulted ∧ t.stage = .awaitLeadFall ∧ t.ptr = 0 ∧ t.script = []

/-- 45_transmit_encoder.md R104 and R105: SEND, then every toggle with a lateness of at most TX_LATENCY_MAX and none
before the one before it, then the release, put the frame's waveform on the line: it falls at the start, changes once
for every offset at its toggle's time, and is released; no interval differs from its duration by more than
TX_LATENCY_MAX, and with every lateness zero the changes are at the offsets. Also the model's: the script (log 3), the
kept times of the arm and of the SEND (log 21) and the run's fault mark (log 22). -/
def Obligations.TransmissionIsTheWaveform : Prop :=
  ∀ (user data : Byte) (n r : Nat) (late : List Nat) (s : State), s.params.Ok → s.params.hasOutput = true →
    s.txBusy = false → s.tau ≤ n → (s.wdtPending = true → r ≤ s.wdtArmedAt + 100000 + s.params.wdtLatencyMax) →
    late.length = 67 → (∀ k < 67, late.getD k 0 ≤ s.params.txLatencyMax) →
    let x := txSchedule user.toNat data.toNat
    let toggleAt (k : Nat) : Nat := n + x.offsets.getD k 0 + late.getD k 0
    (∀ k < 66, toggleAt k ≤ toggleAt (k + 1)) → toggleAt 66 ≤ r →
    s.script = .event (.send n user.toNat data.toNat) ::
      ((List.range 67).map fun k => .event (.txt (toggleAt k))) ++ [.event (.txr r)] →
    let edges : List Nat := n :: (List.range 67).map toggleAt
    (∃ t, Host.Core.run core 69 s = .next t ∧
      t.trace = s.trace ++
        ((List.range 68).map fun k => ⟨edges.getD k 0, .txLine (.driven (if k % 2 = 0 then .low else .high))⟩) ++
        [⟨r, .txLine .released⟩] ∧
      t.txBusy = false ∧ t.txIdx = 0 ∧ t.pinMode = .input ∧ t.script = [] ∧ SameReceiver s t ∧ SameQueue s t) ∧
    ∀ k < 67, |(edges.getD (k + 1) 0 : Int) - edges.getD k 0 - x.durations.getD k 0| ≤ s.params.txLatencyMax
end

