-- ==== Sys2Proof/Laws/Codec.lean ====
section
/-! SUPPORT. The codec, the schedule and a waveform element by element: lengths and entries, which proofs cite instead of
unfolding the recursions. -/

namespace Sys2Proof.Machine

/-! ## Codec -/

theorem lowBits_length (v n : Nat) : (lowBits v n).length = n := by
  induction n generalizing v with
  | zero => rfl
  | succ n ih => simp [lowBits, ih]

theorem lowBits_getElem? {n j : Nat} (v : Nat) (h : j < n) : (lowBits v n)[j]? = some (v.testBit j) := by
  induction n generalizing v j with
  | zero => omega
  | succ n ih =>
    cases j with
    | zero => simp [lowBits, Nat.testBit_zero]
    | succ j => simp [lowBits, ih _ (Nat.lt_of_succ_lt_succ h), Nat.testBit_succ, Nat.shiftRight_one]

theorem intToBits_getElem? {n j : Nat} (v : Nat) (h : j < n) :
    (intToBits v n)[j]? = some (v.testBit (n - 1 - j)) := by
  rw [intToBits, List.getElem?_reverse (by rw [lowBits_length]; exact h), lowBits_length,
    lowBits_getElem? _ (by omega)]

theorem bitsToInt_concat (s : List Bool) (b : Bool) : bitsToInt (s ++ [b]) = bitsToInt s * 2 + b.toNat := by
  simp [bitsToInt]

theorem bitsToInt_lt (s : List Bool) : bitsToInt s < 2 ^ s.length := by
  induction s using List.reverseRecOn with
  | nil => simp [bitsToInt]
  | append_singleton s b ih =>
    rw [bitsToInt_concat, List.length_append, List.length_singleton, Nat.pow_succ]
    cases b <;> simp only [Bool.toNat_false, Bool.toNat_true] <;> omega

theorem fieldBits_length (f : Frame) {k : Nat} (h : k < 4) : (fieldBits f k).length = 8 := by
  simp [fieldBits]; omega

/-- Two encodings whose values disagree in every bit are each other's negation, slot by slot. -/
theorem intToBits_map_not {v w n : Nat} (h : ∀ j < n, w.testBit j = !v.testBit j) :
    intToBits w n = (intToBits v n).map not := by
  apply List.ext_getElem?
  intro j
  by_cases hj : j < n
  · rw [intToBits_getElem? _ hj, List.getElem?_map, intToBits_getElem? _ hj]
    simp [h _ (show n - 1 - j < n by omega)]
  · rw [List.getElem?_eq_none, List.getElem?_eq_none] <;> simp [intToBits, lowBits_length] <;> omega

/-! ## Schedule -/

theorem slots_length (bits : List Bool) : (bits.flatMap slotDurations).length = 2 * bits.length := by
  induction bits with
  | nil => rfl
  | cons b bits ih =>
    rw [List.flatMap_cons, List.length_append, ih, List.length_cons]
    simp only [slotDurations, List.length_cons, List.length_nil]
    omega

theorem durations_length (bits : List Bool) : (durations bits).length = 2 * bits.length + 3 := by
  simp only [durations, List.length_append, slots_length, List.length_cons, List.length_nil]
  omega

/-- The mark and the space of slot `i` among the slots' durations. -/
theorem slots_getElem? {bits : List Bool} {i : Nat} (h : i < bits.length) :
    (bits.flatMap slotDurations)[2 * i]? = some 560 ∧
      (bits.flatMap slotDurations)[2 * i + 1]? = some (if bits.getD i false then 1680 else 560) := by
  induction bits generalizing i with
  | nil => simp at h
  | cons b bits ih =>
    cases i with
    | zero => simp [slotDurations, Config.tMark, Config.tSpace0, Config.tSpace1]
    | succ i =>
      have := ih (i := i) (by simpa using h)
      simp only [List.flatMap_cons, slotDurations, List.cons_append, List.nil_append, Nat.mul_succ]
      simpa using this

theorem prefixSums_length (start : Nat) (ds : List Nat) : (prefixSums start ds).length = ds.length := by
  induction ds generalizing start with
  | nil => rfl
  | cons d ds ih => simp [prefixSums, ih]

theorem prefixSums_getElem? {ds : List Nat} {k : Nat} (start : Nat) (h : k < ds.length) :
    (prefixSums start ds)[k]? = some (start + (ds.take (k + 1)).sum) := by
  induction ds generalizing start k with
  | nil => simp at h
  | cons d ds ih =>
    cases k with
    | zero => simp [prefixSums]
    | succ k => simp [prefixSums, ih (start + d) (by simpa using h)]; omega

theorem txBits_length (user data : Nat) : (txBits user data).length = 32 := by
  simp [txBits, intToBits, lowBits_length]

/-! ## Waveform -/

theorem waveFrom_length (t : Nat) (lvl : Level) (ds : List Nat) : (waveFrom t lvl ds).length = ds.length + 1 := by
  induction ds generalizing t lvl with
  | nil => rfl
  | cons d ds ih => simp [waveFrom, ih]

theorem waveFrom_getElem? {ds : List Nat} {k : Nat} (t : Nat) (lvl : Level) (h : k ≤ ds.length) :
    (waveFrom t lvl ds)[k]? = some (.edge (t + (ds.take k).sum) (if k % 2 = 0 then lvl else lvl.flip)) := by
  induction ds generalizing t lvl k with
  | nil =>
    obtain rfl : k = 0 := by simpa using h
    rfl
  | cons d ds ih =>
    cases k with
    | zero => simp [waveFrom]
    | succ k =>
      simp only [waveFrom, List.getElem?_cons_succ]
      rw [ih _ _ (by simpa using h)]
      simp only [List.take_succ_cons, List.sum_cons]
      rcases Nat.mod_two_eq_zero_or_one k with hk | hk
      · rw [if_pos hk, if_neg (by omega), Nat.add_assoc]
      · rw [if_neg (by omega), if_pos (by omega), Nat.add_assoc]
        cases lvl <;> rfl

end Sys2Proof.Machine
end

