-- ==== Sys2Proof/Laws/Decode.lean ====
section
/-! SUPPORT. Operand by operand, that reading undoes writing, and what a successful reading says of the bytes. -/

namespace Sys2Proof

theorem natBytes_length (count n : Nat) : (natBytes count n).length = count := by
  induction count generalizing n with
  | zero => rfl
  | succ count ih => simp [natBytes, ih]

theorem leNat_natBytes (count n : Nat) : leNat (natBytes count n) = n % 256 ^ count := by
  induction count generalizing n with
  | zero => simp [natBytes, leNat, Nat.mod_one]
  | succ count ih =>
    simp only [natBytes, leNat, ih, BitVec.toNat_ofNat, Nat.reducePow]
    rw [Nat.pow_succ', Nat.mod_mul]

theorem takeNat_natBytes {n : Nat} (rest : List Byte) (h : n < 2 ^ 64) :
    takeNat (natBytes 8 n ++ rest) = .ok (n, rest) := by
  have l8 := natBytes_length 8 n
  have v : leNat (natBytes 8 n) = n := by rw [leNat_natBytes, Nat.mod_eq_of_lt (by simpa using h)]
  rw [takeNat, if_neg (by simp [l8]), List.take_left' l8, List.drop_left' l8, v]

theorem takeLevel_levelByte (lvl : Level) (rest : List Byte) :
    takeLevel (levelByte lvl :: rest) = .ok (lvl, rest) := by
  cases lvl <;> rfl

theorem takeBits_bitBytes (seq : List Bool) (rest : List Byte) :
    takeBits (bitBytes seq ++ rest) = .ok (seq, rest) := by
  induction seq with
  | nil => simp [bitBytes, takeBits]
  | cons b seq ih =>
    have e : bitBytes (b :: seq) ++ rest = (if b then 3 else 2) :: (bitBytes seq ++ rest) := by simp [bitBytes]
    rw [e]
    cases b <;> simp [takeBits, ih, Except.map]

/-- Each key has its own row. -/
theorem opOfKey_key (o : Op) : opOfKey o.key = some o := by cases o <;> decide

/-- A row found for a key has that key. -/
theorem key_of_opOfKey {k : Byte} {o : Op} (h : opOfKey k = some o) : o.key = k := by
  simpa using List.find?_some h

theorem decodeKey_key (o : Op) (bs : List Byte) : decodeKey (o.key :: bs) = decodeOperands o bs := by
  simp [decodeKey, opOfKey_key]

/-- What a successful pair of readings says. -/
theorem takeBoth_ok {α β : Type} {f : List Byte → Taken α} {g : List Byte → Taken β} {bs rest : List Byte}
    {p : α × β} (h : takeBoth f g bs = .ok (p, rest)) :
    ∃ mid, f bs = .ok (p.1, mid) ∧ g mid = .ok (p.2, rest) := by
  unfold takeBoth at h
  split at h
  · cases h
  split at h
  · cases h
  cases h
  exact ⟨_, ‹_›, ‹_›⟩

end Sys2Proof
end

