-- ==== Sys2Proof/Laws/State.lean ====
section
/-! SUPPORT. Beside State: for each shared operation over the registers, what every field is after it. No later proof
unfolds a record update. -/

namespace Sys2Proof.Machine

/-! ## `emit` -/

@[simp] theorem emit_stage (o : Output) (s : State) : (emit o s).stage = s.stage := rfl
@[simp] theorem emit_ptr (o : Output) (s : State) : (emit o s).ptr = s.ptr := rfl
@[simp] theorem emit_frame (o : Output) (s : State) : (emit o s).frame = s.frame := rfl
@[simp] theorem emit_lastTs (o : Output) (s : State) : (emit o s).lastTs = s.lastTs := rfl
@[simp] theorem emit_rxEnable (o : Output) (s : State) : (emit o s).rxEnable = s.rxEnable := rfl
@[simp] theorem emit_wdtPending (o : Output) (s : State) : (emit o s).wdtPending = s.wdtPending := rfl
@[simp] theorem emit_wdtDeadline (o : Output) (s : State) : (emit o s).wdtDeadline = s.wdtDeadline := rfl
@[simp] theorem emit_wdtArmedAt (o : Output) (s : State) : (emit o s).wdtArmedAt = s.wdtArmedAt := rfl
@[simp] theorem emit_dq (o : Output) (s : State) : (emit o s).dq = s.dq := rfl
@[simp] theorem emit_dqOverflow (o : Output) (s : State) : (emit o s).dqOverflow = s.dqOverflow := rfl
@[simp] theorem emit_faulted (o : Output) (s : State) : (emit o s).faulted = s.faulted := rfl
@[simp] theorem emit_txBusy (o : Output) (s : State) : (emit o s).txBusy = s.txBusy := rfl
@[simp] theorem emit_txT0 (o : Output) (s : State) : (emit o s).txT0 = s.txT0 := rfl
@[simp] theorem emit_txStartedAt (o : Output) (s : State) : (emit o s).txStartedAt = s.txStartedAt := rfl
@[simp] theorem emit_txOff (o : Output) (s : State) : (emit o s).txOff = s.txOff := rfl
@[simp] theorem emit_txIdx (o : Output) (s : State) : (emit o s).txIdx = s.txIdx := rfl
@[simp] theorem emit_pinMode (o : Output) (s : State) : (emit o s).pinMode = s.pinMode := rfl
@[simp] theorem emit_pinLevel (o : Output) (s : State) : (emit o s).pinLevel = s.pinLevel := rfl
@[simp] theorem emit_params (o : Output) (s : State) : (emit o s).params = s.params := rfl
@[simp] theorem emit_tau (o : Output) (s : State) : (emit o s).tau = s.tau := rfl
@[simp] theorem emit_script (o : Output) (s : State) : (emit o s).script = s.script := rfl
@[simp] theorem emit_trace (o : Output) (s : State) : (emit o s).trace = s.trace ++ [⟨s.tau, o⟩] := rfl

/-! ## `stamp` -/

@[simp] theorem stamp_stage (t : Nat) (s : State) : (stamp t s).stage = s.stage := rfl
@[simp] theorem stamp_ptr (t : Nat) (s : State) : (stamp t s).ptr = s.ptr := rfl
@[simp] theorem stamp_frame (t : Nat) (s : State) : (stamp t s).frame = s.frame := rfl
@[simp] theorem stamp_lastTs (t : Nat) (s : State) : (stamp t s).lastTs = truncW s.params.clockBits t := rfl
@[simp] theorem stamp_rxEnable (t : Nat) (s : State) : (stamp t s).rxEnable = s.rxEnable := rfl
@[simp] theorem stamp_wdtPending (t : Nat) (s : State) : (stamp t s).wdtPending = s.wdtPending := rfl
@[simp] theorem stamp_wdtDeadline (t : Nat) (s : State) : (stamp t s).wdtDeadline = s.wdtDeadline := rfl
@[simp] theorem stamp_wdtArmedAt (t : Nat) (s : State) : (stamp t s).wdtArmedAt = s.wdtArmedAt := rfl
@[simp] theorem stamp_dq (t : Nat) (s : State) : (stamp t s).dq = s.dq := rfl
@[simp] theorem stamp_dqOverflow (t : Nat) (s : State) : (stamp t s).dqOverflow = s.dqOverflow := rfl
@[simp] theorem stamp_faulted (t : Nat) (s : State) : (stamp t s).faulted = s.faulted := rfl
@[simp] theorem stamp_txBusy (t : Nat) (s : State) : (stamp t s).txBusy = s.txBusy := rfl
@[simp] theorem stamp_txT0 (t : Nat) (s : State) : (stamp t s).txT0 = s.txT0 := rfl
@[simp] theorem stamp_txStartedAt (t : Nat) (s : State) : (stamp t s).txStartedAt = s.txStartedAt := rfl
@[simp] theorem stamp_txOff (t : Nat) (s : State) : (stamp t s).txOff = s.txOff := rfl
@[simp] theorem stamp_txIdx (t : Nat) (s : State) : (stamp t s).txIdx = s.txIdx := rfl
@[simp] theorem stamp_pinMode (t : Nat) (s : State) : (stamp t s).pinMode = s.pinMode := rfl
@[simp] theorem stamp_pinLevel (t : Nat) (s : State) : (stamp t s).pinLevel = s.pinLevel := rfl
@[simp] theorem stamp_params (t : Nat) (s : State) : (stamp t s).params = s.params := rfl
@[simp] theorem stamp_tau (t : Nat) (s : State) : (stamp t s).tau = s.tau := rfl
@[simp] theorem stamp_script (t : Nat) (s : State) : (stamp t s).script = s.script := rfl
@[simp] theorem stamp_trace (t : Nat) (s : State) : (stamp t s).trace = s.trace := rfl

/-! ## `attemptReset` -/

@[simp] theorem attemptReset_stage (s : State) : (attemptReset s).stage = .awaitLeadFall := rfl
@[simp] theorem attemptReset_ptr (s : State) : (attemptReset s).ptr = 0 := rfl
@[simp] theorem attemptReset_frame (s : State) : (attemptReset s).frame = clearFrame := rfl
@[simp] theorem attemptReset_lastTs (s : State) : (attemptReset s).lastTs = s.lastTs := rfl
@[simp] theorem attemptReset_rxEnable (s : State) : (attemptReset s).rxEnable = s.rxEnable := rfl
@[simp] theorem attemptReset_wdtPending (s : State) : (attemptReset s).wdtPending = s.wdtPending := rfl
@[simp] theorem attemptReset_wdtDeadline (s : State) : (attemptReset s).wdtDeadline = s.wdtDeadline := rfl
@[simp] theorem attemptReset_wdtArmedAt (s : State) : (attemptReset s).wdtArmedAt = s.wdtArmedAt := rfl
@[simp] theorem attemptReset_dq (s : State) : (attemptReset s).dq = s.dq := rfl
@[simp] theorem attemptReset_dqOverflow (s : State) : (attemptReset s).dqOverflow = s.dqOverflow := rfl
@[simp] theorem attemptReset_faulted (s : State) : (attemptReset s).faulted = s.faulted := rfl
@[simp] theorem attemptReset_txBusy (s : State) : (attemptReset s).txBusy = s.txBusy := rfl
@[simp] theorem attemptReset_txT0 (s : State) : (attemptReset s).txT0 = s.txT0 := rfl
@[simp] theorem attemptReset_txStartedAt (s : State) : (attemptReset s).txStartedAt = s.txStartedAt := rfl
@[simp] theorem attemptReset_txOff (s : State) : (attemptReset s).txOff = s.txOff := rfl
@[simp] theorem attemptReset_txIdx (s : State) : (attemptReset s).txIdx = s.txIdx := rfl
@[simp] theorem attemptReset_pinMode (s : State) : (attemptReset s).pinMode = s.pinMode := rfl
@[simp] theorem attemptReset_pinLevel (s : State) : (attemptReset s).pinLevel = s.pinLevel := rfl
@[simp] theorem attemptReset_params (s : State) : (attemptReset s).params = s.params := rfl
@[simp] theorem attemptReset_tau (s : State) : (attemptReset s).tau = s.tau := rfl
@[simp] theorem attemptReset_script (s : State) : (attemptReset s).script = s.script := rfl
@[simp] theorem attemptReset_trace (s : State) : (attemptReset s).trace = s.trace := rfl

/-! ## `enqueue` -/

@[simp] theorem enqueue_stage (x : WorkItem) (s : State) : (enqueue x s).stage = s.stage := by
  unfold enqueue; cases hasRoom s <;> rfl
@[simp] theorem enqueue_ptr (x : WorkItem) (s : State) : (enqueue x s).ptr = s.ptr := by
  unfold enqueue; cases hasRoom s <;> rfl
@[simp] theorem enqueue_frame (x : WorkItem) (s : State) : (enqueue x s).frame = s.frame := by
  unfold enqueue; cases hasRoom s <;> rfl
@[simp] theorem enqueue_lastTs (x : WorkItem) (s : State) : (enqueue x s).lastTs = s.lastTs := by
  unfold enqueue; cases hasRoom s <;> rfl
@[simp] theorem enqueue_rxEnable (x : WorkItem) (s : State) : (enqueue x s).rxEnable = s.rxEnable := by
  unfold enqueue; cases hasRoom s <;> rfl
@[simp] theorem enqueue_wdtPending (x : WorkItem) (s : State) : (enqueue x s).wdtPending = s.wdtPending := by
  unfold enqueue; cases hasRoom s <;> rfl
@[simp] theorem enqueue_wdtDeadline (x : WorkItem) (s : State) : (enqueue x s).wdtDeadline = s.wdtDeadline := by
  unfold enqueue; cases hasRoom s <;> rfl
@[simp] theorem enqueue_wdtArmedAt (x : WorkItem) (s : State) : (enqueue x s).wdtArmedAt = s.wdtArmedAt := by
  unfold enqueue; cases hasRoom s <;> rfl
@[simp] theorem enqueue_dq (x : WorkItem) (s : State) : (enqueue x s).dq = bif hasRoom s then s.dq ++ [x] else s.dq := by
  unfold enqueue; cases hasRoom s <;> rfl
@[simp] theorem enqueue_dqOverflow (x : WorkItem) (s : State) : (enqueue x s).dqOverflow = bif hasRoom s then s.dqOverflow else true := by
  unfold enqueue; cases hasRoom s <;> rfl
@[simp] theorem enqueue_faulted (x : WorkItem) (s : State) : (enqueue x s).faulted = bif hasRoom s then s.faulted else true := by
  unfold enqueue; cases hasRoom s <;> rfl
@[simp] theorem enqueue_txBusy (x : WorkItem) (s : State) : (enqueue x s).txBusy = s.txBusy := by
  unfold enqueue; cases hasRoom s <;> rfl
@[simp] theorem enqueue_txT0 (x : WorkItem) (s : State) : (enqueue x s).txT0 = s.txT0 := by
  unfold enqueue; cases hasRoom s <;> rfl
@[simp] theorem enqueue_txStartedAt (x : WorkItem) (s : State) : (enqueue x s).txStartedAt = s.txStartedAt := by
  unfold enqueue; cases hasRoom s <;> rfl
@[simp] theorem enqueue_txOff (x : WorkItem) (s : State) : (enqueue x s).txOff = s.txOff := by
  unfold enqueue; cases hasRoom s <;> rfl
@[simp] theorem enqueue_txIdx (x : WorkItem) (s : State) : (enqueue x s).txIdx = s.txIdx := by
  unfold enqueue; cases hasRoom s <;> rfl
@[simp] theorem enqueue_pinMode (x : WorkItem) (s : State) : (enqueue x s).pinMode = s.pinMode := by
  unfold enqueue; cases hasRoom s <;> rfl
@[simp] theorem enqueue_pinLevel (x : WorkItem) (s : State) : (enqueue x s).pinLevel = s.pinLevel := by
  unfold enqueue; cases hasRoom s <;> rfl
@[simp] theorem enqueue_params (x : WorkItem) (s : State) : (enqueue x s).params = s.params := by
  unfold enqueue; cases hasRoom s <;> rfl
@[simp] theorem enqueue_tau (x : WorkItem) (s : State) : (enqueue x s).tau = s.tau := by
  unfold enqueue; cases hasRoom s <;> rfl
@[simp] theorem enqueue_script (x : WorkItem) (s : State) : (enqueue x s).script = s.script := by
  unfold enqueue; cases hasRoom s <;> rfl
@[simp] theorem enqueue_trace (x : WorkItem) (s : State) : (enqueue x s).trace = s.trace := by
  unfold enqueue; cases hasRoom s <;> rfl

/-! ## `abort` -/

@[simp] theorem abort_stage (k : DiagKind) (s : State) : (abort k s).stage = .awaitLeadFall := enqueue_stage _ _
@[simp] theorem abort_ptr (k : DiagKind) (s : State) : (abort k s).ptr = 0 := enqueue_ptr _ _
@[simp] theorem abort_frame (k : DiagKind) (s : State) : (abort k s).frame = clearFrame := enqueue_frame _ _
@[simp] theorem abort_lastTs (k : DiagKind) (s : State) : (abort k s).lastTs = s.lastTs := enqueue_lastTs _ _
@[simp] theorem abort_rxEnable (k : DiagKind) (s : State) : (abort k s).rxEnable = s.rxEnable := enqueue_rxEnable _ _
@[simp] theorem abort_wdtPending (k : DiagKind) (s : State) : (abort k s).wdtPending = s.wdtPending := enqueue_wdtPending _ _
@[simp] theorem abort_wdtDeadline (k : DiagKind) (s : State) : (abort k s).wdtDeadline = s.wdtDeadline := enqueue_wdtDeadline _ _
@[simp] theorem abort_wdtArmedAt (k : DiagKind) (s : State) : (abort k s).wdtArmedAt = s.wdtArmedAt := enqueue_wdtArmedAt _ _
@[simp] theorem abort_dq (k : DiagKind) (s : State) : (abort k s).dq = bif hasRoom s then s.dq ++ [.diag k] else s.dq := enqueue_dq _ _
@[simp] theorem abort_dqOverflow (k : DiagKind) (s : State) : (abort k s).dqOverflow = bif hasRoom s then s.dqOverflow else true := enqueue_dqOverflow _ _
@[simp] theorem abort_faulted (k : DiagKind) (s : State) : (abort k s).faulted = bif hasRoom s then s.faulted else true := enqueue_faulted _ _
@[simp] theorem abort_txBusy (k : DiagKind) (s : State) : (abort k s).txBusy = s.txBusy := enqueue_txBusy _ _
@[simp] theorem abort_txT0 (k : DiagKind) (s : State) : (abort k s).txT0 = s.txT0 := enqueue_txT0 _ _
@[simp] theorem abort_txStartedAt (k : DiagKind) (s : State) : (abort k s).txStartedAt = s.txStartedAt := enqueue_txStartedAt _ _
@[simp] theorem abort_txOff (k : DiagKind) (s : State) : (abort k s).txOff = s.txOff := enqueue_txOff _ _
@[simp] theorem abort_txIdx (k : DiagKind) (s : State) : (abort k s).txIdx = s.txIdx := enqueue_txIdx _ _
@[simp] theorem abort_pinMode (k : DiagKind) (s : State) : (abort k s).pinMode = s.pinMode := enqueue_pinMode _ _
@[simp] theorem abort_pinLevel (k : DiagKind) (s : State) : (abort k s).pinLevel = s.pinLevel := enqueue_pinLevel _ _
@[simp] theorem abort_params (k : DiagKind) (s : State) : (abort k s).params = s.params := enqueue_params _ _
@[simp] theorem abort_tau (k : DiagKind) (s : State) : (abort k s).tau = s.tau := enqueue_tau _ _
@[simp] theorem abort_script (k : DiagKind) (s : State) : (abort k s).script = s.script := enqueue_script _ _
@[simp] theorem abort_trace (k : DiagKind) (s : State) : (abort k s).trace = s.trace := enqueue_trace _ _

/-! ## `armWatchdog` -/

@[simp] theorem armWatchdog_stage (t : Nat) (s : State) : (armWatchdog t s).stage = s.stage := rfl
@[simp] theorem armWatchdog_ptr (t : Nat) (s : State) : (armWatchdog t s).ptr = s.ptr := rfl
@[simp] theorem armWatchdog_frame (t : Nat) (s : State) : (armWatchdog t s).frame = s.frame := rfl
@[simp] theorem armWatchdog_lastTs (t : Nat) (s : State) : (armWatchdog t s).lastTs = s.lastTs := rfl
@[simp] theorem armWatchdog_rxEnable (t : Nat) (s : State) : (armWatchdog t s).rxEnable = s.rxEnable := rfl
@[simp] theorem armWatchdog_wdtPending (t : Nat) (s : State) : (armWatchdog t s).wdtPending = true := rfl
@[simp] theorem armWatchdog_wdtDeadline (t : Nat) (s : State) : (armWatchdog t s).wdtDeadline = truncW s.params.clockBits (truncW s.params.clockBits t + Config.tWdt) := rfl
@[simp] theorem armWatchdog_wdtArmedAt (t : Nat) (s : State) : (armWatchdog t s).wdtArmedAt = t := rfl
@[simp] theorem armWatchdog_dq (t : Nat) (s : State) : (armWatchdog t s).dq = s.dq := rfl
@[simp] theorem armWatchdog_dqOverflow (t : Nat) (s : State) : (armWatchdog t s).dqOverflow = s.dqOverflow := rfl
@[simp] theorem armWatchdog_faulted (t : Nat) (s : State) : (armWatchdog t s).faulted = s.faulted := rfl
@[simp] theorem armWatchdog_txBusy (t : Nat) (s : State) : (armWatchdog t s).txBusy = s.txBusy := rfl
@[simp] theorem armWatchdog_txT0 (t : Nat) (s : State) : (armWatchdog t s).txT0 = s.txT0 := rfl
@[simp] theorem armWatchdog_txStartedAt (t : Nat) (s : State) : (armWatchdog t s).txStartedAt = s.txStartedAt := rfl
@[simp] theorem armWatchdog_txOff (t : Nat) (s : State) : (armWatchdog t s).txOff = s.txOff := rfl
@[simp] theorem armWatchdog_txIdx (t : Nat) (s : State) : (armWatchdog t s).txIdx = s.txIdx := rfl
@[simp] theorem armWatchdog_pinMode (t : Nat) (s : State) : (armWatchdog t s).pinMode = s.pinMode := rfl
@[simp] theorem armWatchdog_pinLevel (t : Nat) (s : State) : (armWatchdog t s).pinLevel = s.pinLevel := rfl
@[simp] theorem armWatchdog_params (t : Nat) (s : State) : (armWatchdog t s).params = s.params := rfl
@[simp] theorem armWatchdog_tau (t : Nat) (s : State) : (armWatchdog t s).tau = s.tau := rfl
@[simp] theorem armWatchdog_script (t : Nat) (s : State) : (armWatchdog t s).script = s.script := rfl
@[simp] theorem armWatchdog_trace (t : Nat) (s : State) : (armWatchdog t s).trace = s.trace ++ [⟨s.tau, .wdtArm Config.tWdt⟩] := rfl

/-! ## `openAttempt` -/

@[simp] theorem openAttempt_stage (t : Nat) (s : State) : (openAttempt t s).stage = .awaitLeadRise := rfl
@[simp] theorem openAttempt_ptr (t : Nat) (s : State) : (openAttempt t s).ptr = 0 := rfl
@[simp] theorem openAttempt_frame (t : Nat) (s : State) : (openAttempt t s).frame = clearFrame := rfl
@[simp] theorem openAttempt_lastTs (t : Nat) (s : State) : (openAttempt t s).lastTs = s.lastTs := rfl
@[simp] theorem openAttempt_rxEnable (t : Nat) (s : State) : (openAttempt t s).rxEnable = s.rxEnable := rfl
@[simp] theorem openAttempt_wdtPending (t : Nat) (s : State) : (openAttempt t s).wdtPending = true := rfl
@[simp] theorem openAttempt_wdtDeadline (t : Nat) (s : State) : (openAttempt t s).wdtDeadline = truncW s.params.clockBits (truncW s.params.clockBits t + Config.tWdt) := rfl
@[simp] theorem openAttempt_wdtArmedAt (t : Nat) (s : State) : (openAttempt t s).wdtArmedAt = t := rfl
@[simp] theorem openAttempt_dq (t : Nat) (s : State) : (openAttempt t s).dq = s.dq := rfl
@[simp] theorem openAttempt_dqOverflow (t : Nat) (s : State) : (openAttempt t s).dqOverflow = s.dqOverflow := rfl
@[simp] theorem openAttempt_faulted (t : Nat) (s : State) : (openAttempt t s).faulted = s.faulted := rfl
@[simp] theorem openAttempt_txBusy (t : Nat) (s : State) : (openAttempt t s).txBusy = s.txBusy := rfl
@[simp] theorem openAttempt_txT0 (t : Nat) (s : State) : (openAttempt t s).txT0 = s.txT0 := rfl
@[simp] theorem openAttempt_txStartedAt (t : Nat) (s : State) : (openAttempt t s).txStartedAt = s.txStartedAt := rfl
@[simp] theorem openAttempt_txOff (t : Nat) (s : State) : (openAttempt t s).txOff = s.txOff := rfl
@[simp] theorem openAttempt_txIdx (t : Nat) (s : State) : (openAttempt t s).txIdx = s.txIdx := rfl
@[simp] theorem openAttempt_pinMode (t : Nat) (s : State) : (openAttempt t s).pinMode = s.pinMode := rfl
@[simp] theorem openAttempt_pinLevel (t : Nat) (s : State) : (openAttempt t s).pinLevel = s.pinLevel := rfl
@[simp] theorem openAttempt_params (t : Nat) (s : State) : (openAttempt t s).params = s.params := rfl
@[simp] theorem openAttempt_tau (t : Nat) (s : State) : (openAttempt t s).tau = s.tau := rfl
@[simp] theorem openAttempt_script (t : Nat) (s : State) : (openAttempt t s).script = s.script := rfl
@[simp] theorem openAttempt_trace (t : Nat) (s : State) : (openAttempt t s).trace = s.trace ++ [⟨s.tau, .wdtArm Config.tWdt⟩] := rfl

/-! ## `storeBit` -/

@[simp] theorem storeBit_stage (b : Bool) (s : State) : (storeBit b s).stage = .awaitBitRise := rfl
@[simp] theorem storeBit_ptr (b : Bool) (s : State) : (storeBit b s).ptr = s.ptr + 1 := rfl
@[simp] theorem storeBit_frame (b : Bool) (s : State) : (storeBit b s).frame = s.frame.setIfInBounds s.ptr b := rfl
@[simp] theorem storeBit_lastTs (b : Bool) (s : State) : (storeBit b s).lastTs = s.lastTs := rfl
@[simp] theorem storeBit_rxEnable (b : Bool) (s : State) : (storeBit b s).rxEnable = s.rxEnable := rfl
@[simp] theorem storeBit_wdtPending (b : Bool) (s : State) : (storeBit b s).wdtPending = s.wdtPending := rfl
@[simp] theorem storeBit_wdtDeadline (b : Bool) (s : State) : (storeBit b s).wdtDeadline = s.wdtDeadline := rfl
@[simp] theorem storeBit_wdtArmedAt (b : Bool) (s : State) : (storeBit b s).wdtArmedAt = s.wdtArmedAt := rfl
@[simp] theorem storeBit_dq (b : Bool) (s : State) : (storeBit b s).dq = s.dq := rfl
@[simp] theorem storeBit_dqOverflow (b : Bool) (s : State) : (storeBit b s).dqOverflow = s.dqOverflow := rfl
@[simp] theorem storeBit_faulted (b : Bool) (s : State) : (storeBit b s).faulted = s.faulted := rfl
@[simp] theorem storeBit_txBusy (b : Bool) (s : State) : (storeBit b s).txBusy = s.txBusy := rfl
@[simp] theorem storeBit_txT0 (b : Bool) (s : State) : (storeBit b s).txT0 = s.txT0 := rfl
@[simp] theorem storeBit_txStartedAt (b : Bool) (s : State) : (storeBit b s).txStartedAt = s.txStartedAt := rfl
@[simp] theorem storeBit_txOff (b : Bool) (s : State) : (storeBit b s).txOff = s.txOff := rfl
@[simp] theorem storeBit_txIdx (b : Bool) (s : State) : (storeBit b s).txIdx = s.txIdx := rfl
@[simp] theorem storeBit_pinMode (b : Bool) (s : State) : (storeBit b s).pinMode = s.pinMode := rfl
@[simp] theorem storeBit_pinLevel (b : Bool) (s : State) : (storeBit b s).pinLevel = s.pinLevel := rfl
@[simp] theorem storeBit_params (b : Bool) (s : State) : (storeBit b s).params = s.params := rfl
@[simp] theorem storeBit_tau (b : Bool) (s : State) : (storeBit b s).tau = s.tau := rfl
@[simp] theorem storeBit_script (b : Bool) (s : State) : (storeBit b s).script = s.script := rfl
@[simp] theorem storeBit_trace (b : Bool) (s : State) : (storeBit b s).trace = s.trace := rfl

/-! ## `goto` -/

@[simp] theorem goto_stage (st : Stage) (s : State) : (goto st s).stage = st := rfl
@[simp] theorem goto_ptr (st : Stage) (s : State) : (goto st s).ptr = s.ptr := rfl
@[simp] theorem goto_frame (st : Stage) (s : State) : (goto st s).frame = s.frame := rfl
@[simp] theorem goto_lastTs (st : Stage) (s : State) : (goto st s).lastTs = s.lastTs := rfl
@[simp] theorem goto_rxEnable (st : Stage) (s : State) : (goto st s).rxEnable = s.rxEnable := rfl
@[simp] theorem goto_wdtPending (st : Stage) (s : State) : (goto st s).wdtPending = s.wdtPending := rfl
@[simp] theorem goto_wdtDeadline (st : Stage) (s : State) : (goto st s).wdtDeadline = s.wdtDeadline := rfl
@[simp] theorem goto_wdtArmedAt (st : Stage) (s : State) : (goto st s).wdtArmedAt = s.wdtArmedAt := rfl
@[simp] theorem goto_dq (st : Stage) (s : State) : (goto st s).dq = s.dq := rfl
@[simp] theorem goto_dqOverflow (st : Stage) (s : State) : (goto st s).dqOverflow = s.dqOverflow := rfl
@[simp] theorem goto_faulted (st : Stage) (s : State) : (goto st s).faulted = s.faulted := rfl
@[simp] theorem goto_txBusy (st : Stage) (s : State) : (goto st s).txBusy = s.txBusy := rfl
@[simp] theorem goto_txT0 (st : Stage) (s : State) : (goto st s).txT0 = s.txT0 := rfl
@[simp] theorem goto_txStartedAt (st : Stage) (s : State) : (goto st s).txStartedAt = s.txStartedAt := rfl
@[simp] theorem goto_txOff (st : Stage) (s : State) : (goto st s).txOff = s.txOff := rfl
@[simp] theorem goto_txIdx (st : Stage) (s : State) : (goto st s).txIdx = s.txIdx := rfl
@[simp] theorem goto_pinMode (st : Stage) (s : State) : (goto st s).pinMode = s.pinMode := rfl
@[simp] theorem goto_pinLevel (st : Stage) (s : State) : (goto st s).pinLevel = s.pinLevel := rfl
@[simp] theorem goto_params (st : Stage) (s : State) : (goto st s).params = s.params := rfl
@[simp] theorem goto_tau (st : Stage) (s : State) : (goto st s).tau = s.tau := rfl
@[simp] theorem goto_script (st : Stage) (s : State) : (goto st s).script = s.script := rfl
@[simp] theorem goto_trace (st : Stage) (s : State) : (goto st s).trace = s.trace := rfl

/-! ## `driveLow` -/

@[simp] theorem driveLow_stage (s : State) : (driveLow s).stage = s.stage := rfl
@[simp] theorem driveLow_ptr (s : State) : (driveLow s).ptr = s.ptr := rfl
@[simp] theorem driveLow_frame (s : State) : (driveLow s).frame = s.frame := rfl
@[simp] theorem driveLow_lastTs (s : State) : (driveLow s).lastTs = s.lastTs := rfl
@[simp] theorem driveLow_rxEnable (s : State) : (driveLow s).rxEnable = s.rxEnable := rfl
@[simp] theorem driveLow_wdtPending (s : State) : (driveLow s).wdtPending = s.wdtPending := rfl
@[simp] theorem driveLow_wdtDeadline (s : State) : (driveLow s).wdtDeadline = s.wdtDeadline := rfl
@[simp] theorem driveLow_wdtArmedAt (s : State) : (driveLow s).wdtArmedAt = s.wdtArmedAt := rfl
@[simp] theorem driveLow_dq (s : State) : (driveLow s).dq = s.dq := rfl
@[simp] theorem driveLow_dqOverflow (s : State) : (driveLow s).dqOverflow = s.dqOverflow := rfl
@[simp] theorem driveLow_faulted (s : State) : (driveLow s).faulted = s.faulted := rfl
@[simp] theorem driveLow_txBusy (s : State) : (driveLow s).txBusy = s.txBusy := rfl
@[simp] theorem driveLow_txT0 (s : State) : (driveLow s).txT0 = s.txT0 := rfl
@[simp] theorem driveLow_txStartedAt (s : State) : (driveLow s).txStartedAt = s.txStartedAt := rfl
@[simp] theorem driveLow_txOff (s : State) : (driveLow s).txOff = s.txOff := rfl
@[simp] theorem driveLow_txIdx (s : State) : (driveLow s).txIdx = s.txIdx := rfl
@[simp] theorem driveLow_pinMode (s : State) : (driveLow s).pinMode = .output := rfl
@[simp] theorem driveLow_pinLevel (s : State) : (driveLow s).pinLevel = .low := rfl
@[simp] theorem driveLow_params (s : State) : (driveLow s).params = s.params := rfl
@[simp] theorem driveLow_tau (s : State) : (driveLow s).tau = s.tau := rfl
@[simp] theorem driveLow_script (s : State) : (driveLow s).script = s.script := rfl
@[simp] theorem driveLow_trace (s : State) : (driveLow s).trace = s.trace ++ [⟨s.tau, .txLine (.driven .low)⟩] := rfl

/-! ## `togglePin` -/

@[simp] theorem togglePin_stage (s : State) : (togglePin s).stage = s.stage := rfl
@[simp] theorem togglePin_ptr (s : State) : (togglePin s).ptr = s.ptr := rfl
@[simp] theorem togglePin_frame (s : State) : (togglePin s).frame = s.frame := rfl
@[simp] theorem togglePin_lastTs (s : State) : (togglePin s).lastTs = s.lastTs := rfl
@[simp] theorem togglePin_rxEnable (s : State) : (togglePin s).rxEnable = s.rxEnable := rfl
@[simp] theorem togglePin_wdtPending (s : State) : (togglePin s).wdtPending = s.wdtPending := rfl
@[simp] theorem togglePin_wdtDeadline (s : State) : (togglePin s).wdtDeadline = s.wdtDeadline := rfl
@[simp] theorem togglePin_wdtArmedAt (s : State) : (togglePin s).wdtArmedAt = s.wdtArmedAt := rfl
@[simp] theorem togglePin_dq (s : State) : (togglePin s).dq = s.dq := rfl
@[simp] theorem togglePin_dqOverflow (s : State) : (togglePin s).dqOverflow = s.dqOverflow := rfl
@[simp] theorem togglePin_faulted (s : State) : (togglePin s).faulted = s.faulted := rfl
@[simp] theorem togglePin_txBusy (s : State) : (togglePin s).txBusy = s.txBusy := rfl
@[simp] theorem togglePin_txT0 (s : State) : (togglePin s).txT0 = s.txT0 := rfl
@[simp] theorem togglePin_txStartedAt (s : State) : (togglePin s).txStartedAt = s.txStartedAt := rfl
@[simp] theorem togglePin_txOff (s : State) : (togglePin s).txOff = s.txOff := rfl
@[simp] theorem togglePin_txIdx (s : State) : (togglePin s).txIdx = s.txIdx := rfl
@[simp] theorem togglePin_pinMode (s : State) : (togglePin s).pinMode = s.pinMode := rfl
@[simp] theorem togglePin_pinLevel (s : State) : (togglePin s).pinLevel = s.pinLevel.flip := rfl
@[simp] theorem togglePin_params (s : State) : (togglePin s).params = s.params := rfl
@[simp] theorem togglePin_tau (s : State) : (togglePin s).tau = s.tau := rfl
@[simp] theorem togglePin_script (s : State) : (togglePin s).script = s.script := rfl
@[simp] theorem togglePin_trace (s : State) : (togglePin s).trace = s.trace ++ [⟨s.tau, .txLine (.driven s.pinLevel.flip)⟩] := rfl

/-! ## `releasePin` -/

@[simp] theorem releasePin_stage (s : State) : (releasePin s).stage = s.stage := rfl
@[simp] theorem releasePin_ptr (s : State) : (releasePin s).ptr = s.ptr := rfl
@[simp] theorem releasePin_frame (s : State) : (releasePin s).frame = s.frame := rfl
@[simp] theorem releasePin_lastTs (s : State) : (releasePin s).lastTs = s.lastTs := rfl
@[simp] theorem releasePin_rxEnable (s : State) : (releasePin s).rxEnable = s.rxEnable := rfl
@[simp] theorem releasePin_wdtPending (s : State) : (releasePin s).wdtPending = s.wdtPending := rfl
@[simp] theorem releasePin_wdtDeadline (s : State) : (releasePin s).wdtDeadline = s.wdtDeadline := rfl
@[simp] theorem releasePin_wdtArmedAt (s : State) : (releasePin s).wdtArmedAt = s.wdtArmedAt := rfl
@[simp] theorem releasePin_dq (s : State) : (releasePin s).dq = s.dq := rfl
@[simp] theorem releasePin_dqOverflow (s : State) : (releasePin s).dqOverflow = s.dqOverflow := rfl
@[simp] theorem releasePin_faulted (s : State) : (releasePin s).faulted = s.faulted := rfl
@[simp] theorem releasePin_txBusy (s : State) : (releasePin s).txBusy = s.txBusy := rfl
@[simp] theorem releasePin_txT0 (s : State) : (releasePin s).txT0 = s.txT0 := rfl
@[simp] theorem releasePin_txStartedAt (s : State) : (releasePin s).txStartedAt = s.txStartedAt := rfl
@[simp] theorem releasePin_txOff (s : State) : (releasePin s).txOff = s.txOff := rfl
@[simp] theorem releasePin_txIdx (s : State) : (releasePin s).txIdx = s.txIdx := rfl
@[simp] theorem releasePin_pinMode (s : State) : (releasePin s).pinMode = .input := rfl
@[simp] theorem releasePin_pinLevel (s : State) : (releasePin s).pinLevel = s.pinLevel := rfl
@[simp] theorem releasePin_params (s : State) : (releasePin s).params = s.params := rfl
@[simp] theorem releasePin_tau (s : State) : (releasePin s).tau = s.tau := rfl
@[simp] theorem releasePin_script (s : State) : (releasePin s).script = s.script := rfl
@[simp] theorem releasePin_trace (s : State) : (releasePin s).trace = s.trace ++ [⟨s.tau, .txLine .released⟩] := rfl

/-! ## `startTransmission` -/

@[simp] theorem startTransmission_stage (t u d : Nat) (s : State) : (startTransmission t u d s).stage = s.stage := rfl
@[simp] theorem startTransmission_ptr (t u d : Nat) (s : State) : (startTransmission t u d s).ptr = s.ptr := rfl
@[simp] theorem startTransmission_frame (t u d : Nat) (s : State) : (startTransmission t u d s).frame = s.frame := rfl
@[simp] theorem startTransmission_lastTs (t u d : Nat) (s : State) : (startTransmission t u d s).lastTs = s.lastTs := rfl
@[simp] theorem startTransmission_rxEnable (t u d : Nat) (s : State) : (startTransmission t u d s).rxEnable = s.rxEnable := rfl
@[simp] theorem startTransmission_wdtPending (t u d : Nat) (s : State) : (startTransmission t u d s).wdtPending = s.wdtPending := rfl
@[simp] theorem startTransmission_wdtDeadline (t u d : Nat) (s : State) : (startTransmission t u d s).wdtDeadline = s.wdtDeadline := rfl
@[simp] theorem startTransmission_wdtArmedAt (t u d : Nat) (s : State) : (startTransmission t u d s).wdtArmedAt = s.wdtArmedAt := rfl
@[simp] theorem startTransmission_dq (t u d : Nat) (s : State) : (startTransmission t u d s).dq = s.dq := rfl
@[simp] theorem startTransmission_dqOverflow (t u d : Nat) (s : State) : (startTransmission t u d s).dqOverflow = s.dqOverflow := rfl
@[simp] theorem startTransmission_faulted (t u d : Nat) (s : State) : (startTransmission t u d s).faulted = s.faulted := rfl
@[simp] theorem startTransmission_txBusy (t u d : Nat) (s : State) : (startTransmission t u d s).txBusy = true := rfl
@[simp] theorem startTransmission_txT0 (t u d : Nat) (s : State) : (startTransmission t u d s).txT0 = truncW s.params.clockBits t := rfl
@[simp] theorem startTransmission_txStartedAt (t u d : Nat) (s : State) :
    (startTransmission t u d s).txStartedAt = t := rfl
@[simp] theorem startTransmission_txOff (t u d : Nat) (s : State) : (startTransmission t u d s).txOff = txOffsets u d := rfl
@[simp] theorem startTransmission_txIdx (t u d : Nat) (s : State) : (startTransmission t u d s).txIdx = 0 := rfl
@[simp] theorem startTransmission_pinMode (t u d : Nat) (s : State) : (startTransmission t u d s).pinMode = .output := rfl
@[simp] theorem startTransmission_pinLevel (t u d : Nat) (s : State) : (startTransmission t u d s).pinLevel = .low := rfl
@[simp] theorem startTransmission_params (t u d : Nat) (s : State) : (startTransmission t u d s).params = s.params := rfl
@[simp] theorem startTransmission_tau (t u d : Nat) (s : State) : (startTransmission t u d s).tau = s.tau := rfl
@[simp] theorem startTransmission_script (t u d : Nat) (s : State) : (startTransmission t u d s).script = s.script := rfl
@[simp] theorem startTransmission_trace (t u d : Nat) (s : State) : (startTransmission t u d s).trace = s.trace ++ [⟨s.tau, .txLine (.driven .low)⟩] := rfl

/-! ## `resetRegisters` -/

@[simp] theorem resetRegisters_stage (s : State) : (resetRegisters s).stage = .awaitLeadFall := rfl
@[simp] theorem resetRegisters_ptr (s : State) : (resetRegisters s).ptr = 0 := rfl
@[simp] theorem resetRegisters_frame (s : State) : (resetRegisters s).frame = Vector.replicate 32 false := rfl
@[simp] theorem resetRegisters_lastTs (s : State) : (resetRegisters s).lastTs = 0 := rfl
@[simp] theorem resetRegisters_rxEnable (s : State) : (resetRegisters s).rxEnable = false := rfl
@[simp] theorem resetRegisters_wdtPending (s : State) : (resetRegisters s).wdtPending = false := rfl
@[simp] theorem resetRegisters_wdtDeadline (s : State) : (resetRegisters s).wdtDeadline = 0 := rfl
@[simp] theorem resetRegisters_wdtArmedAt (s : State) : (resetRegisters s).wdtArmedAt = 0 := rfl
@[simp] theorem resetRegisters_dq (s : State) : (resetRegisters s).dq = [] := rfl
@[simp] theorem resetRegisters_dqOverflow (s : State) : (resetRegisters s).dqOverflow = false := rfl
@[simp] theorem resetRegisters_faulted (s : State) : (resetRegisters s).faulted = s.faulted := rfl
@[simp] theorem resetRegisters_txBusy (s : State) : (resetRegisters s).txBusy = false := rfl
@[simp] theorem resetRegisters_txT0 (s : State) : (resetRegisters s).txT0 = 0 := rfl
@[simp] theorem resetRegisters_txStartedAt (s : State) : (resetRegisters s).txStartedAt = 0 := rfl
@[simp] theorem resetRegisters_txOff (s : State) : (resetRegisters s).txOff = txOffsets 0 0 := rfl
@[simp] theorem resetRegisters_txIdx (s : State) : (resetRegisters s).txIdx = 0 := rfl
@[simp] theorem resetRegisters_pinMode (s : State) : (resetRegisters s).pinMode = .input := rfl
@[simp] theorem resetRegisters_pinLevel (s : State) : (resetRegisters s).pinLevel = .low := rfl
@[simp] theorem resetRegisters_params (s : State) : (resetRegisters s).params = s.params := rfl
@[simp] theorem resetRegisters_tau (s : State) : (resetRegisters s).tau = s.tau := rfl
@[simp] theorem resetRegisters_script (s : State) : (resetRegisters s).script = s.script := rfl
@[simp] theorem resetRegisters_trace (s : State) : (resetRegisters s).trace = s.trace := rfl

/-! ## `subscribe` -/

@[simp] theorem subscribe_stage (on : Bool) (s : State) : (subscribe on s).stage = s.stage := rfl
@[simp] theorem subscribe_ptr (on : Bool) (s : State) : (subscribe on s).ptr = s.ptr := rfl
@[simp] theorem subscribe_frame (on : Bool) (s : State) : (subscribe on s).frame = s.frame := rfl
@[simp] theorem subscribe_lastTs (on : Bool) (s : State) : (subscribe on s).lastTs = s.lastTs := rfl
@[simp] theorem subscribe_rxEnable (on : Bool) (s : State) : (subscribe on s).rxEnable = on := rfl
@[simp] theorem subscribe_wdtPending (on : Bool) (s : State) : (subscribe on s).wdtPending = s.wdtPending := rfl
@[simp] theorem subscribe_wdtDeadline (on : Bool) (s : State) : (subscribe on s).wdtDeadline = s.wdtDeadline := rfl
@[simp] theorem subscribe_wdtArmedAt (on : Bool) (s : State) : (subscribe on s).wdtArmedAt = s.wdtArmedAt := rfl
@[simp] theorem subscribe_dq (on : Bool) (s : State) : (subscribe on s).dq = s.dq := rfl
@[simp] theorem subscribe_dqOverflow (on : Bool) (s : State) : (subscribe on s).dqOverflow = s.dqOverflow := rfl
@[simp] theorem subscribe_faulted (on : Bool) (s : State) : (subscribe on s).faulted = s.faulted := rfl
@[simp] theorem subscribe_txBusy (on : Bool) (s : State) : (subscribe on s).txBusy = s.txBusy := rfl
@[simp] theorem subscribe_txT0 (on : Bool) (s : State) : (subscribe on s).txT0 = s.txT0 := rfl
@[simp] theorem subscribe_txStartedAt (on : Bool) (s : State) : (subscribe on s).txStartedAt = s.txStartedAt := rfl
@[simp] theorem subscribe_txOff (on : Bool) (s : State) : (subscribe on s).txOff = s.txOff := rfl
@[simp] theorem subscribe_txIdx (on : Bool) (s : State) : (subscribe on s).txIdx = s.txIdx := rfl
@[simp] theorem subscribe_pinMode (on : Bool) (s : State) : (subscribe on s).pinMode = s.pinMode := rfl
@[simp] theorem subscribe_pinLevel (on : Bool) (s : State) : (subscribe on s).pinLevel = s.pinLevel := rfl
@[simp] theorem subscribe_params (on : Bool) (s : State) : (subscribe on s).params = s.params := rfl
@[simp] theorem subscribe_tau (on : Bool) (s : State) : (subscribe on s).tau = s.tau := rfl
@[simp] theorem subscribe_script (on : Bool) (s : State) : (subscribe on s).script = s.script := rfl
@[simp] theorem subscribe_trace (on : Bool) (s : State) : (subscribe on s).trace = s.trace := rfl

/-! ## `disarm` -/

@[simp] theorem disarm_stage (s : State) : (disarm s).stage = s.stage := rfl
@[simp] theorem disarm_ptr (s : State) : (disarm s).ptr = s.ptr := rfl
@[simp] theorem disarm_frame (s : State) : (disarm s).frame = s.frame := rfl
@[simp] theorem disarm_lastTs (s : State) : (disarm s).lastTs = s.lastTs := rfl
@[simp] theorem disarm_rxEnable (s : State) : (disarm s).rxEnable = s.rxEnable := rfl
@[simp] theorem disarm_wdtPending (s : State) : (disarm s).wdtPending = false := rfl
@[simp] theorem disarm_wdtDeadline (s : State) : (disarm s).wdtDeadline = s.wdtDeadline := rfl
@[simp] theorem disarm_wdtArmedAt (s : State) : (disarm s).wdtArmedAt = s.wdtArmedAt := rfl
@[simp] theorem disarm_dq (s : State) : (disarm s).dq = s.dq := rfl
@[simp] theorem disarm_dqOverflow (s : State) : (disarm s).dqOverflow = s.dqOverflow := rfl
@[simp] theorem disarm_faulted (s : State) : (disarm s).faulted = s.faulted := rfl
@[simp] theorem disarm_txBusy (s : State) : (disarm s).txBusy = s.txBusy := rfl
@[simp] theorem disarm_txT0 (s : State) : (disarm s).txT0 = s.txT0 := rfl
@[simp] theorem disarm_txStartedAt (s : State) : (disarm s).txStartedAt = s.txStartedAt := rfl
@[simp] theorem disarm_txOff (s : State) : (disarm s).txOff = s.txOff := rfl
@[simp] theorem disarm_txIdx (s : State) : (disarm s).txIdx = s.txIdx := rfl
@[simp] theorem disarm_pinMode (s : State) : (disarm s).pinMode = s.pinMode := rfl
@[simp] theorem disarm_pinLevel (s : State) : (disarm s).pinLevel = s.pinLevel := rfl
@[simp] theorem disarm_params (s : State) : (disarm s).params = s.params := rfl
@[simp] theorem disarm_tau (s : State) : (disarm s).tau = s.tau := rfl
@[simp] theorem disarm_script (s : State) : (disarm s).script = s.script := rfl
@[simp] theorem disarm_trace (s : State) : (disarm s).trace = s.trace := rfl

/-! ## `withQueue` -/

@[simp] theorem withQueue_stage (q : List WorkItem) (s : State) : (withQueue q s).stage = s.stage := rfl
@[simp] theorem withQueue_ptr (q : List WorkItem) (s : State) : (withQueue q s).ptr = s.ptr := rfl
@[simp] theorem withQueue_frame (q : List WorkItem) (s : State) : (withQueue q s).frame = s.frame := rfl
@[simp] theorem withQueue_lastTs (q : List WorkItem) (s : State) : (withQueue q s).lastTs = s.lastTs := rfl
@[simp] theorem withQueue_rxEnable (q : List WorkItem) (s : State) : (withQueue q s).rxEnable = s.rxEnable := rfl
@[simp] theorem withQueue_wdtPending (q : List WorkItem) (s : State) : (withQueue q s).wdtPending = s.wdtPending := rfl
@[simp] theorem withQueue_wdtDeadline (q : List WorkItem) (s : State) : (withQueue q s).wdtDeadline = s.wdtDeadline := rfl
@[simp] theorem withQueue_wdtArmedAt (q : List WorkItem) (s : State) : (withQueue q s).wdtArmedAt = s.wdtArmedAt := rfl
@[simp] theorem withQueue_dq (q : List WorkItem) (s : State) : (withQueue q s).dq = q := rfl
@[simp] theorem withQueue_dqOverflow (q : List WorkItem) (s : State) : (withQueue q s).dqOverflow = s.dqOverflow := rfl
@[simp] theorem withQueue_faulted (q : List WorkItem) (s : State) : (withQueue q s).faulted = s.faulted := rfl
@[simp] theorem withQueue_txBusy (q : List WorkItem) (s : State) : (withQueue q s).txBusy = s.txBusy := rfl
@[simp] theorem withQueue_txT0 (q : List WorkItem) (s : State) : (withQueue q s).txT0 = s.txT0 := rfl
@[simp] theorem withQueue_txStartedAt (q : List WorkItem) (s : State) : (withQueue q s).txStartedAt = s.txStartedAt := rfl
@[simp] theorem withQueue_txOff (q : List WorkItem) (s : State) : (withQueue q s).txOff = s.txOff := rfl
@[simp] theorem withQueue_txIdx (q : List WorkItem) (s : State) : (withQueue q s).txIdx = s.txIdx := rfl
@[simp] theorem withQueue_pinMode (q : List WorkItem) (s : State) : (withQueue q s).pinMode = s.pinMode := rfl
@[simp] theorem withQueue_pinLevel (q : List WorkItem) (s : State) : (withQueue q s).pinLevel = s.pinLevel := rfl
@[simp] theorem withQueue_params (q : List WorkItem) (s : State) : (withQueue q s).params = s.params := rfl
@[simp] theorem withQueue_tau (q : List WorkItem) (s : State) : (withQueue q s).tau = s.tau := rfl
@[simp] theorem withQueue_script (q : List WorkItem) (s : State) : (withQueue q s).script = s.script := rfl
@[simp] theorem withQueue_trace (q : List WorkItem) (s : State) : (withQueue q s).trace = s.trace := rfl

/-! ## `nextBoundary` -/

@[simp] theorem nextBoundary_stage (s : State) : (nextBoundary s).stage = s.stage := rfl
@[simp] theorem nextBoundary_ptr (s : State) : (nextBoundary s).ptr = s.ptr := rfl
@[simp] theorem nextBoundary_frame (s : State) : (nextBoundary s).frame = s.frame := rfl
@[simp] theorem nextBoundary_lastTs (s : State) : (nextBoundary s).lastTs = s.lastTs := rfl
@[simp] theorem nextBoundary_rxEnable (s : State) : (nextBoundary s).rxEnable = s.rxEnable := rfl
@[simp] theorem nextBoundary_wdtPending (s : State) : (nextBoundary s).wdtPending = s.wdtPending := rfl
@[simp] theorem nextBoundary_wdtDeadline (s : State) : (nextBoundary s).wdtDeadline = s.wdtDeadline := rfl
@[simp] theorem nextBoundary_wdtArmedAt (s : State) : (nextBoundary s).wdtArmedAt = s.wdtArmedAt := rfl
@[simp] theorem nextBoundary_dq (s : State) : (nextBoundary s).dq = s.dq := rfl
@[simp] theorem nextBoundary_dqOverflow (s : State) : (nextBoundary s).dqOverflow = s.dqOverflow := rfl
@[simp] theorem nextBoundary_faulted (s : State) : (nextBoundary s).faulted = s.faulted := rfl
@[simp] theorem nextBoundary_txBusy (s : State) : (nextBoundary s).txBusy = s.txBusy := rfl
@[simp] theorem nextBoundary_txT0 (s : State) : (nextBoundary s).txT0 = s.txT0 := rfl
@[simp] theorem nextBoundary_txStartedAt (s : State) : (nextBoundary s).txStartedAt = s.txStartedAt := rfl
@[simp] theorem nextBoundary_txOff (s : State) : (nextBoundary s).txOff = s.txOff := rfl
@[simp] theorem nextBoundary_txIdx (s : State) : (nextBoundary s).txIdx = s.txIdx + 1 := rfl
@[simp] theorem nextBoundary_pinMode (s : State) : (nextBoundary s).pinMode = s.pinMode := rfl
@[simp] theorem nextBoundary_pinLevel (s : State) : (nextBoundary s).pinLevel = s.pinLevel := rfl
@[simp] theorem nextBoundary_params (s : State) : (nextBoundary s).params = s.params := rfl
@[simp] theorem nextBoundary_tau (s : State) : (nextBoundary s).tau = s.tau := rfl
@[simp] theorem nextBoundary_script (s : State) : (nextBoundary s).script = s.script := rfl
@[simp] theorem nextBoundary_trace (s : State) : (nextBoundary s).trace = s.trace := rfl

/-! ## `endTransmission` -/

@[simp] theorem endTransmission_stage (s : State) : (endTransmission s).stage = s.stage := rfl
@[simp] theorem endTransmission_ptr (s : State) : (endTransmission s).ptr = s.ptr := rfl
@[simp] theorem endTransmission_frame (s : State) : (endTransmission s).frame = s.frame := rfl
@[simp] theorem endTransmission_lastTs (s : State) : (endTransmission s).lastTs = s.lastTs := rfl
@[simp] theorem endTransmission_rxEnable (s : State) : (endTransmission s).rxEnable = s.rxEnable := rfl
@[simp] theorem endTransmission_wdtPending (s : State) : (endTransmission s).wdtPending = s.wdtPending := rfl
@[simp] theorem endTransmission_wdtDeadline (s : State) : (endTransmission s).wdtDeadline = s.wdtDeadline := rfl
@[simp] theorem endTransmission_wdtArmedAt (s : State) : (endTransmission s).wdtArmedAt = s.wdtArmedAt := rfl
@[simp] theorem endTransmission_dq (s : State) : (endTransmission s).dq = s.dq := rfl
@[simp] theorem endTransmission_dqOverflow (s : State) : (endTransmission s).dqOverflow = s.dqOverflow := rfl
@[simp] theorem endTransmission_faulted (s : State) : (endTransmission s).faulted = s.faulted := rfl
@[simp] theorem endTransmission_txBusy (s : State) : (endTransmission s).txBusy = false := rfl
@[simp] theorem endTransmission_txT0 (s : State) : (endTransmission s).txT0 = s.txT0 := rfl
@[simp] theorem endTransmission_txStartedAt (s : State) : (endTransmission s).txStartedAt = s.txStartedAt := rfl
@[simp] theorem endTransmission_txOff (s : State) : (endTransmission s).txOff = s.txOff := rfl
@[simp] theorem endTransmission_txIdx (s : State) : (endTransmission s).txIdx = 0 := rfl
@[simp] theorem endTransmission_pinMode (s : State) : (endTransmission s).pinMode = s.pinMode := rfl
@[simp] theorem endTransmission_pinLevel (s : State) : (endTransmission s).pinLevel = s.pinLevel := rfl
@[simp] theorem endTransmission_params (s : State) : (endTransmission s).params = s.params := rfl
@[simp] theorem endTransmission_tau (s : State) : (endTransmission s).tau = s.tau := rfl
@[simp] theorem endTransmission_script (s : State) : (endTransmission s).script = s.script := rfl
@[simp] theorem endTransmission_trace (s : State) : (endTransmission s).trace = s.trace := rfl

/-! ## Room in the queue -/

theorem hasRoom_iff (s : State) : hasRoom s = true ↔ s.dq.length < s.params.queueDepth := by simp [hasRoom]
@[simp] theorem hasRoom_emit (o : Output) (s : State) : hasRoom (emit o s) = hasRoom s := rfl
@[simp] theorem hasRoom_stamp (t : Nat) (s : State) : hasRoom (stamp t s) = hasRoom s := rfl
@[simp] theorem hasRoom_attemptReset (s : State) : hasRoom (attemptReset s) = hasRoom s := rfl
@[simp] theorem hasRoom_disarm (s : State) : hasRoom (disarm s) = hasRoom s := rfl

end Sys2Proof.Machine
end

