-- ==== Sys2Proof/Laws/Ops.lean ====
section
/-! SUPPORT. One lemma per shared operation, saying once what it can do: counter arithmetic, the accept test, the queue,
the dispatch condition of an edge, the enabling conditions. -/

namespace Sys2Proof.Machine

open Sys2Proof.Safety

/-! ## Counter arithmetic -/

theorem truncW_lt (w v : Nat) : truncW w v < 2 ^ w := Nat.mod_lt _ (Nat.two_pow_pos w)

theorem subW_lt (w a b : Nat) : subW w a b < 2 ^ w := Nat.mod_lt _ (Nat.two_pow_pos w)

/-- The model's wrap-safe subtraction is the difference modulo `2^W` taken in the integers. -/
theorem subW_eq_counterDiff (w a b : Nat) : subW w a b = counterDiff w a b := by
  have hp : (0 : Int) < 2 ^ w := by positivity
  have hb : b % 2 ^ w ≤ a + 2 ^ w := by
    have := Nat.mod_lt b (Nat.two_pow_pos w)
    omega
  unfold subW counterDiff
  have key : ((a + 2 ^ w - b % 2 ^ w : Nat) : Int) % 2 ^ w = ((a : Int) - b) % 2 ^ w := by
    rw [Nat.cast_sub hb]
    push_cast
    rw [Int.sub_emod, Int.emod_emod_of_dvd _ (dvd_refl _), ← Int.sub_emod]
    rw [show (a : Int) + 2 ^ w - b = (a - b) + 2 ^ w by ring, Int.add_emod_right]
  rw [← key]
  exact_mod_cast rfl

/-- Truncating the first operand does not change the difference. -/
theorem counterDiff_truncW (w a b : Nat) : counterDiff w (truncW w a) b = counterDiff w a b := by
  unfold counterDiff truncW
  push_cast
  rw [Int.emod_sub_emod]

theorem edgeDelta_eq (t : Nat) (s : State) : edgeDelta t s = counterDiff s.params.clockBits t s.lastTs := by
  rw [edgeDelta, subW_eq_counterDiff, counterDiff_truncW]

theorem txElapsed_eq (t : Nat) (s : State) : txElapsed t s = counterDiff s.params.clockBits t s.txT0 := by
  rw [txElapsed, subW_eq_counterDiff, counterDiff_truncW]

theorem within_iff (d n : Nat) : within d n = true ↔ d ≤ n + 500 ∧ n ≤ d + 500 := by
  unfold within absDiff
  rw [decide_eq_true_iff]
  show (if d ≤ n then n - d else d - n) ≤ 500 ↔ _
  split <;> omega

theorem classify_cases (d : Nat) :
    (60 ≤ d ∧ d ≤ 1060 ∧ classify d = some false) ∨ (1180 ≤ d ∧ d ≤ 2180 ∧ classify d = some true) ∨
      (¬(60 ≤ d ∧ d ≤ 1060) ∧ ¬(1180 ≤ d ∧ d ≤ 2180) ∧ classify d = none) := by
  unfold classify
  by_cases h0 : within d Config.tSpace0 = true
  · have := (within_iff _ _).1 h0
    simp only [Config.tSpace0] at this
    refine .inl ⟨by omega, by omega, by simp [h0]⟩
  · by_cases h1 : within d Config.tSpace1 = true
    · have := (within_iff _ _).1 h1
      simp only [Config.tSpace1] at this
      refine .inr (.inl ⟨by omega, by omega, by simp [h0, h1]⟩)
    · have a := mt (within_iff d Config.tSpace0).2 h0
      have b := mt (within_iff d Config.tSpace1).2 h1
      simp only [Config.tSpace0, Config.tSpace1] at a b
      refine .inr (.inr ⟨by omega, by omega, by simp [h0, h1]⟩)

/-! ## Dispatch and enabling conditions -/

theorem edgeSelects_iff (st : Stage) (s : State) : edgeSelects st false s = true ↔ Selected st s := by
  simp [edgeSelects, ptrFull, Config.frameBits, Selected, and_assoc]

theorem edgeSelects_term_iff (s : State) : edgeSelects .awaitBitRise true s = true ↔ SelectedTerm s := by
  simp [edgeSelects, ptrFull, Config.frameBits, SelectedTerm, and_assoc]

theorem inAttempt_iff (s : State) : inAttempt s = true ↔ s.stage ≠ .awaitLeadFall := by
  simp [inAttempt]

theorem expiryBound_eq (s : State) : expiryBound s = s.wdtArmedAt + 100000 + s.params.wdtLatencyMax := rfl

theorem expiryInWindow_iff (t : Nat) (s : State) :
    expiryInWindow t s = true ↔
      counterDiff s.params.clockBits t s.wdtDeadline ≤ s.params.wdtLatencyMax ∧ s.wdtArmedAt ≤ t ∧
        t ≤ s.wdtArmedAt + 100000 + s.params.wdtLatencyMax := by
  simp [expiryInWindow, ← expiryBound_eq, subW_eq_counterDiff, counterDiff_truncW, and_assoc]

/-- Time passes the latest time of a pending expiry exactly where a statement says so. -/
theorem expiryMissed_eq_false (t : Nat) (s : State) :
    expiryMissed t s = false ↔
      (s.wdtPending = true → t ≤ s.wdtArmedAt + 100000 + s.params.wdtLatencyMax) := by
  simp [expiryMissed, ← expiryBound_eq]

theorem toggleReached_iff (t : Nat) (s : State) :
    toggleReached t s = true ↔
      s.txBusy = true ∧ s.txIdx ≤ 66 ∧ nextOffset s ≤ txElapsed t s ∧ s.txStartedAt ≤ t := by
  simp [toggleReached, and_assoc]

/-- The offset of boundary `k`, where it is the next. -/
theorem nextOffset_eq {s : State} {k : Fin 67} (h : s.txIdx = k.val) : nextOffset s = s.txOff[k] := by
  simp [nextOffset, h, List.getD, k.isLt]

theorem toggleBound_eq {s : State} {k : Fin 67} (h : s.txIdx = k.val) :
    toggleBound s = s.txStartedAt + s.txOff[k] + s.params.txLatencyMax := by
  rw [toggleBound, nextOffset_eq h]

theorem toggleInTime_iff {t : Nat} {s : State} {k : Fin 67} (h : s.txIdx = k.val) :
    toggleInTime t s = true ↔ t ≤ s.txStartedAt + s.txOff[k] + s.params.txLatencyMax := by
  rw [← toggleBound_eq h]
  simp [toggleInTime]

/-- Time passes the latest time of the next toggle exactly where a statement says so. -/
theorem toggleMissed_eq_false (t : Nat) (s : State) :
    toggleMissed t s = false ↔
      ∀ k : Fin 67, s.txBusy = true → s.txIdx = k.val →
        t ≤ s.txStartedAt + s.txOff[k] + s.params.txLatencyMax := by
  constructor
  · intro h k hb hk
    have hk' : s.txIdx ≤ 66 := by omega
    rw [← toggleBound_eq hk]
    simpa [toggleMissed, hb, hk'] using h
  · intro h
    by_cases hk : s.txIdx ≤ 66
    · have hb := h ⟨s.txIdx, by omega⟩
      rw [← toggleBound_eq rfl] at hb
      simpa [toggleMissed, hk] using hb
    · simp [toggleMissed, hk]

theorem releaseReady_iff (s : State) : releaseReady s = true ↔ s.txBusy = true ∧ s.txIdx = 67 := by
  simp [releaseReady]

/-! ## Queue, abort, checked durations -/

/-- Enqueueing adds the item at the tail, or on a full queue sets the two marks and drops it; nothing else changes. -/
theorem enqueue_cases (x : WorkItem) (s : State) :
    (HasRoom s ∧ enqueue x s = { s with dq := s.dq ++ [x] }) ∨
      (¬HasRoom s ∧ enqueue x s = { s with dqOverflow := true, faulted := true }) := by
  cases h : hasRoom s
  · exact .inr ⟨by simpa [hasRoom] using h, by simp [enqueue, h]⟩
  · exact .inl ⟨by simpa [hasRoom] using h, by simp [enqueue, h]⟩

/-- An abort after the common step leaves the state a statement calls `aborted`. -/
theorem abort_stamp (k : DiagKind) (t : Nat) (s : State) : abort k (stamp t s) = aborted k t s := by
  by_cases h : s.dq.length < s.params.queueDepth <;>
    simp [abort, enqueue, hasRoom, aborted, h, attemptReset, stamp, clearFrame, truncW]

/-- A checked duration goes on or aborts. -/
theorem checkDuration_cases (n : Nat) (st : Stage) (t : Nat) (s : State) :
    (within (edgeDelta t s) n = true ∧ checkDuration n st t s = goto st (stamp t s)) ∨
      (within (edgeDelta t s) n = false ∧ checkDuration n st t s = aborted .timingViolation t s) := by
  by_cases h : within (edgeDelta t s) n = true
  · exact .inl ⟨h, by simp [checkDuration, h]⟩
  · exact .inr ⟨by simpa using h, by simp [checkDuration, h, abort_stamp]⟩

/-- One more boundary, the other level. -/
theorem levelAfter_succ (n : Nat) : levelAfter (n + 1) = (levelAfter n).flip := by
  unfold levelAfter
  rcases Nat.mod_two_eq_zero_or_one n with h | h
  · rw [if_neg (by omega), if_pos h]; rfl
  · rw [if_pos (by omega), if_neg (by omega)]; rfl

theorem withOutput_eq_emit (o : Output) (s : State) : withOutput o s = emit o s := rfl

end Sys2Proof.Machine
end

