-- ==== Sys2Proof/Laws/Exec.lean ====
section
/-! SUPPORT. One inversion lemma per meaning: if it answers a next state, which of its cases happened. Proofs over
`exec` go by cases on the operation and cite these. -/

namespace Sys2Proof.Machine

open Sys2Proof.Safety

theorem execReset_next {s s' : State} (h : execReset s = .next s') :
    (s.pinMode = .input ∧ s' = resetRegisters s) ∨
      (s.pinMode = .output ∧ s' = emit (.txLine .released) (resetRegisters s)) := by
  unfold execReset at h
  split at h <;> cases h <;> simp_all

theorem execStartReceive_next {s s' : State} (h : execStartReceive s = .next s') :
    (s.params.hasInput = true ∧ s' = subscribe true (attemptReset s)) ∨
      (s.params.hasInput = false ∧ s' = emit (.diag .noInputCapability) s) := by
  unfold execStartReceive at h
  split at h <;> cases h <;> simp_all

theorem execStopReceive_next {s s' : State} (h : execStopReceive s = .next s') :
    s' = subscribe false s := by
  cases h; rfl

theorem execSend_next {t u d : Nat} {s s' : State} (h : execSend t u d s = .next s') :
    s.params.hasOutput = true ∧ s.txBusy = false ∧ u ≤ 255 ∧ d ≤ 255 ∧ s' = startTransmission t u d s := by
  unfold execSend at h
  split at h
  · cases h
  split at h
  · cases h
  split at h
  · cases h
  cases h
  simp_all

theorem execEdgeLeadfall_next {t : Nat} {lvl : Level} {s s' : State} (h : execEdgeLeadfall t lvl s = .next s') :
    Selected .awaitLeadFall s ∧
      ((lvl = .high ∧ s' = aborted .levelViolation t s) ∨ (lvl = .low ∧ s' = openAttempt t (stamp t s))) := by
  unfold execEdgeLeadfall at h
  split at h
  · rename_i hs
    refine ⟨(edgeSelects_iff _ _).1 hs, ?_⟩
    cases lvl <;> cases h
    · exact .inr ⟨rfl, rfl⟩
    · exact .inl ⟨rfl, abort_stamp _ _ _⟩
  · cases h

/-- What a duration check of an edge can do: the stage moves on, or the attempt is aborted. -/
theorem checked_next {n : Nat} {src dst : Stage} {t : Nat} {s s' : State}
    (h : (if edgeSelects src false s then Host.Outcome.next (checkDuration n dst t s)
      else Host.Outcome.fault .notSelected : Result) = .next s') :
    Selected src s ∧
      ((within (edgeDelta t s) n = true ∧ s' = goto dst (stamp t s)) ∨
        (within (edgeDelta t s) n = false ∧ s' = aborted .timingViolation t s)) := by
  split at h
  · rename_i hs
    cases h
    exact ⟨(edgeSelects_iff _ _).1 hs, checkDuration_cases _ _ _ _⟩
  · cases h

theorem execEdgeLeadrise_next {t : Nat} {lvl : Level} {s s' : State} (h : execEdgeLeadrise t lvl s = .next s') :
    Selected .awaitLeadRise s ∧
      ((within (edgeDelta t s) Config.tLeadLow = true ∧ s' = goto (.awaitBitFall .firstBit) (stamp t s)) ∨
        (within (edgeDelta t s) Config.tLeadLow = false ∧ s' = aborted .timingViolation t s)) :=
  checked_next h

theorem execEdgeBitfallFirst_next {t : Nat} {lvl : Level} {s s' : State}
    (h : execEdgeBitfallFirst t lvl s = .next s') :
    Selected (.awaitBitFall .firstBit) s ∧
      ((within (edgeDelta t s) Config.tLeadHigh = true ∧ s' = goto .awaitBitRise (stamp t s)) ∨
        (within (edgeDelta t s) Config.tLeadHigh = false ∧ s' = aborted .timingViolation t s)) :=
  checked_next h

theorem execEdgeBitriseMark_next {t : Nat} {lvl : Level} {s s' : State}
    (h : execEdgeBitriseMark t lvl s = .next s') :
    Selected .awaitBitRise s ∧
      ((within (edgeDelta t s) Config.tMark = true ∧ s' = goto (.awaitBitFall .subsequentBit) (stamp t s)) ∨
        (within (edgeDelta t s) Config.tMark = false ∧ s' = aborted .timingViolation t s)) :=
  checked_next h

theorem execEdgeBitfallNext_next {t : Nat} {lvl : Level} {s s' : State}
    (h : execEdgeBitfallNext t lvl s = .next s') :
    Selected (.awaitBitFall .subsequentBit) s ∧
      ((∃ b, classify (edgeDelta t s) = some b ∧ s' = storeBit b (stamp t s)) ∨
        (classify (edgeDelta t s) = none ∧ s' = aborted .timingViolation t s)) := by
  unfold execEdgeBitfallNext at h
  split at h
  · rename_i hs
    refine ⟨(edgeSelects_iff _ _).1 hs, ?_⟩
    split at h <;> cases h
    · exact .inl ⟨_, ‹_›, rfl⟩
    · exact .inr ⟨‹_›, abort_stamp _ _ _⟩
  · cases h

theorem execEdgeBitriseTerm_next {t : Nat} {lvl : Level} {s s' : State}
    (h : execEdgeBitriseTerm t lvl s = .next s') :
    SelectedTerm s ∧ s' = attemptReset (enqueue (.validate s.frame) (stamp t s)) := by
  unfold execEdgeBitriseTerm at h
  split at h
  · rename_i hs
    cases h
    exact ⟨(edgeSelects_term_iff _).1 hs, rfl⟩
  · cases h

theorem execWdtExpire_next {t : Nat} {s s' : State} (h : execWdtExpire t s = .next s') :
    s.wdtPending = true ∧ expiryInWindow t s = true ∧
      ((s.stage ≠ .awaitLeadFall ∧
          s' = enqueue (.diag .timeout) (attemptReset (disarm s))) ∨
        (s.stage = .awaitLeadFall ∧ s' = disarm s)) := by
  unfold execWdtExpire at h
  split at h
  · cases h
  split at h
  · cases h
  split at h
  · rename_i h1 h2 h3
    cases h
    exact ⟨by simpa using h1, by simpa using h2, .inl ⟨(inAttempt_iff s).1 h3, rfl⟩⟩
  · rename_i h1 h2 h3
    cases h
    exact ⟨by simpa using h1, by simpa using h2, .inr ⟨by simpa [inAttempt] using h3, rfl⟩⟩

/-- An expiry completes exactly when it is pending and in its window. -/
theorem execWdtExpire_completes (t : Nat) (s : State) :
    (∃ s', execWdtExpire t s = .next s') ↔ s.wdtPending = true ∧ expiryInWindow t s = true := by
  refine ⟨fun ⟨_, h⟩ => ⟨(execWdtExpire_next h).1, (execWdtExpire_next h).2.1⟩, fun ⟨hp, hw⟩ => ?_⟩
  by_cases hi : inAttempt s = true <;> simp [execWdtExpire, hp, hw, hi]

theorem execDqRunValidate_next {s s' : State} (h : execDqRunValidate s = .next s') :
    ∃ f rest, s.dq = .validate f :: rest ∧
      ((∃ u d, validateFrame f = .valid u d ∧ s' = emit (.callback u d) (withQueue rest s)) ∨
        (validateFrame f = .invalid ∧ s' = emit (.diag .checksumFailure) (withQueue rest s))) := by
  unfold execDqRunValidate at h
  split at h
  · cases h
  · cases h
  · rename_i f rest hq
    refine ⟨f, rest, hq, ?_⟩
    split at h <;> cases h
    · exact .inl ⟨_, _, ‹_›, rfl⟩
    · exact .inr ⟨‹_›, rfl⟩

theorem execDqRunDiag_next {s s' : State} (h : execDqRunDiag s = .next s') :
    ∃ kind rest, s.dq = .diag kind :: rest ∧ s' = emit (.diag kind) (withQueue rest s) := by
  unfold execDqRunDiag at h
  split at h
  · cases h
  · cases h
  · rename_i kind rest hq
    cases h
    exact ⟨kind, rest, hq, rfl⟩

theorem execTxToggle_next {t : Nat} {s s' : State} (h : execTxToggle t s = .next s') :
    s.txBusy = true ∧ s.txIdx ≤ 66 ∧ nextOffset s ≤ txElapsed t s ∧
      s.txStartedAt ≤ t ∧ t ≤ toggleBound s ∧
      s' = togglePin (nextBoundary s) := by
  unfold execTxToggle at h
  split at h
  · cases h
  split at h
  · cases h
  rename_i h1 h2
  cases h
  have h1 := (toggleReached_iff t s).1 (by simpa using h1)
  exact ⟨h1.1, h1.2.1, h1.2.2.1, h1.2.2.2, by simpa [toggleInTime] using h2, rfl⟩

/-- A toggle completes exactly when its boundary is reached and not too long ago. -/
theorem execTxToggle_completes (t : Nat) (s : State) :
    (∃ s', execTxToggle t s = .next s') ↔ toggleReached t s = true ∧ toggleInTime t s = true := by
  constructor
  · rintro ⟨s', h⟩
    obtain ⟨h1, h2, h3, h4, h5, -⟩ := execTxToggle_next h
    exact ⟨(toggleReached_iff t s).2 ⟨h1, h2, h3, h4⟩, by simpa [toggleInTime] using h5⟩
  · rintro ⟨h1, h2⟩
    simp [execTxToggle, h1, h2]

theorem execTxRelease_next {t : Nat} {s s' : State} (h : execTxRelease t s = .next s') :
    s.txBusy = true ∧ s.txIdx = 67 ∧ s' = releasePin (endTransmission s) := by
  unfold execTxRelease at h
  split at h
  · rename_i h1
    cases h
    exact ⟨((releaseReady_iff s).1 h1).1, ((releaseReady_iff s).1 h1).2, rfl⟩
  · cases h

/-- A pure function's meaning writes nothing but its returned value. -/
theorem returned_next {v : FnValue} {s s' : State}
    (h : (.next (emit (.returned v) s) : Result) = .next s') : s' = emit (.returned v) s := by
  cases h; rfl

theorem execFrame_next {t0 : Nat} {u uc d dc : Byte} {s s' : State} (h : execFrame t0 u uc d dc s = .next s') :
    s' = { s with script := (rawFrame t0 u uc d dc).map .event ++ s.script } := by
  cases h; rfl

end Sys2Proof.Machine
end

