-- ==== Sys2Proof/Laws/PerInstr.lean ====
section
/-! SUPPORT. The family of per-operation statements: an operation's encoding begins with the key of its own row of the
opcode table, transcribed here a second time. -/

namespace Sys2Proof.Laws

/-- spec/opcode_table.json: each row's mnemonic and dispatch key; the FRAME row has none. -/
def opcodeRows : List (String × Option Byte) :=
  [("RESET", some 0x00),
    ("START_RECEIVE", some 0x10),
    ("STOP_RECEIVE", some 0x20),
    ("SEND", some 0x30),
    ("EDGE.LEADFALL", some 0x40),
    ("EDGE.LEADRISE", some 0x42),
    ("EDGE.BITFALL.FIRST", some 0x44),
    ("EDGE.BITFALL.NEXT", some 0x46),
    ("EDGE.BITRISE.MARK", some 0x48),
    ("EDGE.BITRISE.TERM", some 0x49),
    ("WDT.EXPIRE", some 0x50),
    ("DQ.RUN.VALIDATE", some 0x60),
    ("DQ.RUN.DIAG", some 0x61),
    ("TX.TOGGLE", some 0x70),
    ("TX.RELEASE", some 0x80),
    ("BITS_TO_INT", some 0xF0),
    ("INT_TO_BITS", some 0xF1),
    ("VALIDATE_FRAME", some 0xF2),
    ("TX_SCHEDULE", some 0xF3),
    ("WITHIN", some 0xF4),
    ("FRAME", none)]

/-- The row named by the operation's mnemonic gives the first byte of its encoding; a row without a key is the wire
format, whose first four bytes are the 32 slots. -/
def OpcodeKey.Statement (i : Instr) : Prop :=
  match opcodeRows.lookup i.mnemonic with
  | some (some key) => i.format = .key ∧ (encode i).head? = some key
  | some none => i.format = .wire ∧ 4 ≤ (encode i).length
  | none => False

theorem OpcodeKey.reset : OpcodeKey.Statement .reset := ⟨rfl, rfl⟩

theorem OpcodeKey.startReceive : OpcodeKey.Statement .startReceive := ⟨rfl, rfl⟩

theorem OpcodeKey.stopReceive : OpcodeKey.Statement .stopReceive := ⟨rfl, rfl⟩

theorem OpcodeKey.send (t user data : Nat) : OpcodeKey.Statement (.send t user data) := ⟨rfl, rfl⟩

theorem OpcodeKey.edgeLeadfall (t : Nat) (lvl : Level) : OpcodeKey.Statement (.edgeLeadfall t lvl) := ⟨rfl, rfl⟩

theorem OpcodeKey.edgeLeadrise (t : Nat) (lvl : Level) : OpcodeKey.Statement (.edgeLeadrise t lvl) := ⟨rfl, rfl⟩

theorem OpcodeKey.edgeBitfallFirst (t : Nat) (lvl : Level) : OpcodeKey.Statement (.edgeBitfallFirst t lvl) :=
  ⟨rfl, rfl⟩

theorem OpcodeKey.edgeBitfallNext (t : Nat) (lvl : Level) : OpcodeKey.Statement (.edgeBitfallNext t lvl) := ⟨rfl, rfl⟩

theorem OpcodeKey.edgeBitriseMark (t : Nat) (lvl : Level) : OpcodeKey.Statement (.edgeBitriseMark t lvl) := ⟨rfl, rfl⟩

theorem OpcodeKey.edgeBitriseTerm (t : Nat) (lvl : Level) : OpcodeKey.Statement (.edgeBitriseTerm t lvl) := ⟨rfl, rfl⟩

theorem OpcodeKey.wdtExpire (t : Nat) : OpcodeKey.Statement (.wdtExpire t) := ⟨rfl, rfl⟩

theorem OpcodeKey.dqRunValidate : OpcodeKey.Statement .dqRunValidate := ⟨rfl, rfl⟩

theorem OpcodeKey.dqRunDiag : OpcodeKey.Statement .dqRunDiag := ⟨rfl, rfl⟩

theorem OpcodeKey.txToggle (t : Nat) : OpcodeKey.Statement (.txToggle t) := ⟨rfl, rfl⟩

theorem OpcodeKey.txRelease (t : Nat) : OpcodeKey.Statement (.txRelease t) := ⟨rfl, rfl⟩

theorem OpcodeKey.bitsToInt (seq : List Bool) : OpcodeKey.Statement (.bitsToInt seq) := ⟨rfl, rfl⟩

theorem OpcodeKey.intToBits (value length : Nat) : OpcodeKey.Statement (.intToBits value length) := ⟨rfl, rfl⟩

theorem OpcodeKey.validateFrame (f : Frame) : OpcodeKey.Statement (.validateFrame f) := ⟨rfl, rfl⟩

theorem OpcodeKey.txSchedule (user data : Nat) : OpcodeKey.Statement (.txSchedule user data) := ⟨rfl, rfl⟩

theorem OpcodeKey.within (d nominal : Nat) : OpcodeKey.Statement (.within d nominal) := ⟨rfl, rfl⟩

theorem OpcodeKey.frame (t0 : Nat) (user userC data dataC : Byte) : OpcodeKey.Statement (.frame t0 user userC data dataC) :=
  ⟨rfl, Nat.le_add_left 4 8⟩

end Sys2Proof.Laws
end

