-- ==== Sys2Proof/Laws/Step.lean ====
section
/-! SUPPORT. What one step can do: the state stays (empty script), an item is taken and ignored, or the selected operation
runs from the state with the item taken and the time moved on. -/

namespace Sys2Proof.Machine

open Sys2Proof.Safety

/-- An untimed item is always taken. -/
theorem takeItem_none (rest : List Item) (s : State) : takeItem none rest s = .ok { s with script := rest } := rfl

/-- An item that comes on time is taken: the script and the time are written, and nothing else. -/
theorem takeItem_onTime {t : Nat} {s : State} (rest : List Item) (h : OnTime t s) :
    takeItem (some t) rest s = .ok { s with script := rest, tau := t } := by
  simp [takeItem, Nat.not_lt.2 h.1, (expiryMissed_eq_false t s).2 h.2.1, (toggleMissed_eq_false t s).2 h.2.2]

/-- An item is taken only on time, and then only the script and the time are written. -/
theorem takeItem_eq {time : Option Nat} {rest : List Item} {s s1 : State} (h : takeItem time rest s = .ok s1) :
    s1 = { s with script := rest, tau := time.getD s.tau } ∧ ∀ t, time = some t → OnTime t s := by
  cases time with
  | none => cases h; exact ⟨rfl, by simp⟩
  | some t =>
    simp only [takeItem] at h
    split at h
    · cases h
    split at h
    · cases h
    split at h
    · cases h
    cases h
    rename_i h1 h2 h3
    refine ⟨rfl, ?_⟩
    rintro _ ⟨⟩
    exact ⟨by omega, (expiryMissed_eq_false t s).1 (by simpa using h2), (toggleMissed_eq_false t s).1 (by simpa using h3)⟩

/-- The operation of an event has the event's time. -/
theorem instrOf_time {e : Event} {o : Op} {i : Instr} (h : instrOf e o = some i) : i.time = e.time := by
  cases e <;> cases o <;> first | (cases h; rfl) | (simp [instrOf] at h)

/-- An event is ignored or selects an operation of the same state and the same time. -/
theorem selectEvent_cases (e : Event) (s : State) :
    selectEvent e s = .ignored s ∨ (∃ i, i.time = e.time ∧ selectEvent e s = .run i s) ∨
      ∃ f, selectEvent e s = .stuck f := by
  unfold selectEvent
  split
  · split
    · rename_i hi
      obtain ⟨o, -, ho⟩ := Option.bind_eq_some_iff.1 hi
      exact .inr (.inl ⟨_, instrOf_time ho, rfl⟩)
    · exact .inr (.inr ⟨_, rfl⟩)
  · split
    · exact .inr (.inr ⟨_, rfl⟩)
    · exact .inl rfl

/-- A step on an event that comes on time runs the operation the event selects, from the state with the event taken
and the time moved on. -/
theorem step_event {s s1 : State} {e : Event} {rest : List Item} {i : Instr} (hs : s.script = .event e :: rest)
    (ht : ∀ t, e.time = some t → OnTime t s)
    (he : selectEvent e { s with script := rest, tau := e.time.getD s.tau } = .run i s1) : step s = exec i s1 := by
  have tk : takeItem e.time rest s = .ok { s with script := rest, tau := e.time.getD s.tau } := by
    cases h : e.time with
    | none => rfl
    | some t => exact takeItem_onTime rest (ht t h)
  simp only [step, fetch, hs, tk, he]

/-- A step on the word of an operation that comes on time runs it, from the state with the word taken and the time
moved on. -/
theorem step_word {s : State} {fmt : Format} {bytes tail : List Byte} {rest : List Item} {i : Instr}
    (hs : s.script = .word fmt bytes :: rest) (hd : decode fmt bytes = .ok (i, tail))
    (ht : ∀ t, i.time = some t → OnTime t s) : step s = exec i { s with script := rest, tau := i.time.getD s.tau } := by
  have tk : takeItem i.time rest s = .ok { s with script := rest, tau := i.time.getD s.tau } := by
    cases h : i.time with
    | none => rfl
    | some t => exact takeItem_onTime rest (ht t h)
  simp only [step, fetch, hs, hd, tk]

/-- If a step answers a next state, the script was empty and nothing changed, or an item was taken on time: then only
the script and the time were written before the operation, if any, ran, and its time is the item's. -/
theorem step_next_cases {s s' : State} (h : step s = .next s') :
    s' = s ∨
      ∃ rest time, (∀ t, time = some t → OnTime t s) ∧
        (s' = { s with script := rest, tau := time.getD s.tau } ∨
          ∃ i, i.time = time ∧ exec i { s with script := rest, tau := time.getD s.tau } = .next s') := by
  unfold step fetch at h
  split at h <;> rename_i hf
  · cases h; exact .inl rfl
  · cases h
    split at hf
    · cases hf
    · split at hf
      · rename_i s1 ht
        obtain ⟨rfl, on⟩ := takeItem_eq ht
        rcases selectEvent_cases _ _ with he | ⟨i, -, he⟩ | ⟨f, he⟩ <;> rw [he] at hf <;> cases hf
        exact .inr ⟨_, _, on, .inl rfl⟩
      · cases hf
    · split at hf
      · cases hf
      · split at hf <;> cases hf
  · split at hf
    · cases hf
    · split at hf
      · rename_i s1 ht
        obtain ⟨rfl, on⟩ := takeItem_eq ht
        rcases selectEvent_cases _ _ with he | ⟨i, hi, he⟩ | ⟨f, he⟩ <;> rw [he] at hf <;> cases hf
        exact .inr ⟨_, _, on, .inr ⟨_, hi, h⟩⟩
      · cases hf
    · split at hf
      · cases hf
      · split at hf
        · rename_i s1 ht
          obtain ⟨rfl, on⟩ := takeItem_eq ht
          cases hf
          exact .inr ⟨_, _, on, .inr ⟨_, rfl, h⟩⟩
        · cases hf
  · cases h
  · cases h

/-- A property of states that the script and the time do not touch, and that every operation keeps, is kept by
every step. -/
theorem step_keeps {P : State → Prop} (take : ∀ s rest tau, P s → P { s with script := rest, tau := tau })
    (op : ∀ i s s', P s → exec i s = .next s' → P s') {s s' : State} (hs : P s) (h : step s = .next s') : P s' := by
  rcases step_next_cases h with rfl | ⟨rest, time, -, rfl | ⟨i, -, hi⟩⟩
  · exact hs
  · exact take _ _ _ hs
  · exact op _ _ _ (take _ _ _ hs) hi

end Sys2Proof.Machine
end

