-- ==== Sys2Proof/Tests/Slice0.lean ====
section
/-! SUPPORT. Tests. Expected results come from spec/ (95_test_vectors.md unless a line says otherwise). -/

namespace Sys2Proof.Tests

open Sys2Proof.Machine Sys2Proof.Safety

/-! ## Helpers -/

/-- The next state, if there is one. -/
def nextOf : Result → Option State
  | .next s => some s
  | _ => none

/-- The fault, if there is one. -/
def faultOf : Result → Option Fault
  | .fault f => some f
  | _ => none

/-- The refusal, if there is one. -/
def refusalOf : Result → Option Refusal
  | .refused r => some r
  | _ => none

/-- What a decoding answers, without its error. -/
def read : Taken Instr → Option (Instr × List Byte)
  | .ok p => some p
  | .error _ => none

/-- The name of a refused decoding. -/
def errorOf : Taken Instr → Option DecodeError
  | .ok _ => none
  | .error e => some e

/-- A subscribed receiver in a stage, with its pointer and last timestamp. -/
def listening (st : Stage) (p ts : Nat) : State :=
  { State.reset with rxEnable := true, stage := st, ptr := p, lastTs := ts }

/-- The same with a pending expiry at 101000, armed at 1000. -/
def armed (st : Stage) (p ts : Nat) : State :=
  { listening st p ts with wdtPending := true, wdtDeadline := 101000, wdtArmedAt := 1000 }

/-- A transmission started at 5000 with `k` boundaries done. -/
def sending (k : Nat) (lvl : Level) : State :=
  { State.reset with
    txBusy := true, txT0 := 5000, txStartedAt := 5000, txOff := txOffsets 0x04 0xA6, txIdx := k,
    pinMode := .output, pinLevel := lvl }

/-- A state with these items queued. -/
def queued (q : List WorkItem) : State := { State.reset with dq := q }

/-- A state with these items in the script. -/
def scripted (items : List Item) (s : State) : State := { s with script := items }

/-- What the tests look at: stage, pointer, last timestamp, queue. -/
structure View where
  stage : Stage
  ptr : Nat
  lastTs : Nat
  dq : List WorkItem
  deriving DecidableEq, Repr

/-- The view of a state. -/
def view (s : State) : View := ⟨s.stage, s.ptr, s.lastTs, s.dq⟩

/-- What has left the block, without its times. -/
def outputs (s : State) : List Output := s.trace.map Emission.what

/-! ## WellFormed: each check refuses an ill-formed operation (log 4) -/

theorem test_wf_time : ¬(Instr.send (2 ^ 64) 0 0).WellFormed ∧ ¬(Instr.edgeLeadfall (2 ^ 64) .low).WellFormed ∧
    ¬(Instr.edgeLeadrise (2 ^ 64) .low).WellFormed ∧ ¬(Instr.edgeBitfallFirst (2 ^ 64) .low).WellFormed ∧
    ¬(Instr.edgeBitfallNext (2 ^ 64) .low).WellFormed ∧ ¬(Instr.edgeBitriseMark (2 ^ 64) .low).WellFormed ∧
    ¬(Instr.edgeBitriseTerm (2 ^ 64) .low).WellFormed ∧ ¬(Instr.wdtExpire (2 ^ 64)).WellFormed ∧
    ¬(Instr.txToggle (2 ^ 64)).WellFormed ∧ ¬(Instr.txRelease (2 ^ 64)).WellFormed ∧
    ¬(Instr.frame (2 ^ 64) 0 0 0 0).WellFormed := by decide
theorem test_wf_port : ¬(Instr.send 0 256 0).WellFormed ∧ ¬(Instr.send 0 0 256).WellFormed ∧
    (Instr.send 0 255 255).WellFormed := by decide
theorem test_wf_functions : ¬(Instr.intToBits (2 ^ 64) 0).WellFormed ∧ ¬(Instr.intToBits 0 (2 ^ 64)).WellFormed ∧
    ¬(Instr.txSchedule (2 ^ 64) 0).WellFormed ∧ ¬(Instr.txSchedule 0 (2 ^ 64)).WellFormed ∧
    ¬(Instr.within (2 ^ 64) 0).WellFormed ∧ ¬(Instr.within 0 (2 ^ 64)).WellFormed ∧
    (Instr.txSchedule 0x104 0x1A6).WellFormed := by decide

/-! ## Decoding: the key of every row written out from 30_encoding.md R56, with operand bytes (log 4) -/

theorem test_decode_host : read (decode .key [0b00000000]) = some (.reset, []) ∧
    read (decode .key [0b00010000]) = some (.startReceive, []) ∧
    read (decode .key [0b00100000]) = some (.stopReceive, []) ∧
    read (decode .key [0b00110000, 0x88, 0x13, 0, 0, 0, 0, 0, 0, 0x04, 0xA6]) = some (.send 5000 0x04 0xA6, []) := by
  decide
theorem test_decode_edges :
    read (decode .key [0b01000000, 0xE8, 0x03, 0, 0, 0, 0, 0, 0, 0]) = some (.edgeLeadfall 1000 .low, []) ∧
    read (decode .key [0b01000010, 0x10, 0x27, 0, 0, 0, 0, 0, 0, 1]) = some (.edgeLeadrise 10000 .high, []) ∧
    read (decode .key [0b01000100, 0, 1, 0, 0, 0, 0, 0, 0, 0]) = some (.edgeBitfallFirst 256 .low, []) ∧
    read (decode .key [0b01000110, 0, 0, 1, 0, 0, 0, 0, 0, 0]) = some (.edgeBitfallNext 65536 .low, []) ∧
    read (decode .key [0b01001000, 1, 0, 0, 0, 0, 0, 0, 0, 1]) = some (.edgeBitriseMark 1 .high, []) ∧
    read (decode .key [0b01001001, 0, 0, 0, 0, 0, 0, 0, 1, 1]) =
      some (.edgeBitriseTerm 0x0100000000000000 .high, []) := by
  decide
theorem test_decode_engines :
    read (decode .key [0b01010000, 7, 0, 0, 0, 0, 0, 0, 0, 9]) = some (.wdtExpire 7, [9]) ∧
    read (decode .key [0b01100000]) = some (.dqRunValidate, []) ∧
    read (decode .key [0b01100001]) = some (.dqRunDiag, []) ∧
    read (decode .key [0b01110000, 0xB0, 0x36, 0, 0, 0, 0, 0, 0]) = some (.txToggle 14000, []) ∧
    read (decode .key [0b10000000, 0, 0, 0, 0, 0, 0, 0, 0]) = some (.txRelease 0, []) := by decide
theorem test_decode_functions :
    read (decode .key [0b11110000, 2, 3, 3, 0]) = some (.bitsToInt [false, true, true], []) ∧
    read (decode .key [0b11110001, 1, 0, 0, 0, 0, 0, 0, 0, 3, 0, 0, 0, 0, 0, 0, 0]) = some (.intToBits 1 3, []) ∧
    read (decode .key [0b11110010, 0x04, 0xFB, 0xA6, 0x59]) =
      some (.validateFrame (frameOfNumber 0x04FBA659), []) ∧
    read (decode .key [0b11110011, 0x04, 0x01, 0, 0, 0, 0, 0, 0, 0xA6, 0x01, 0, 0, 0, 0, 0, 0]) =
      some (.txSchedule 0x104 0x1A6, []) ∧
    read (decode .key [0b11110100, 0x1C, 0x25, 0, 0, 0, 0, 0, 0, 0x28, 0x23, 0, 0, 0, 0, 0, 0]) =
      some (.within 9500 9000, []) := by decide
/-- The 32 slots `uuuuuuuuUUUUUUUUddddddddDDDDDDDD` of section 1.1. -/
theorem test_decode_wire :
    read (decode .wire [0b00000100, 0b11111011, 0b10100110, 0b01011001, 0xE8, 0x03, 0, 0, 0, 0, 0, 0]) =
      some (.frame 1000 0x04 0xFB 0xA6 0x59, []) := by decide
/-- Keys of no row, keys of R56 that cannot occur among them, and malformed operands are refused by name. -/
theorem test_decode_rejects : errorOf (decode .key [0x41]) = some (.noSuchKey 0x41) ∧
    errorOf (decode .key [0x4A]) = some (.noSuchKey 0x4A) ∧ errorOf (decode .key [0xF5]) = some (.noSuchKey 0xF5) ∧
    errorOf (decode .key []) = some .truncated ∧ errorOf (decode .key [0x30, 0]) = some .truncated ∧
    errorOf (decode .key [0x40, 0, 0, 0, 0, 0, 0, 0, 0, 2]) = some (.badLevel 2) ∧
    errorOf (decode .key [0xF0, 1]) = some (.badBit 1) ∧ errorOf (decode .wire [1, 2, 3]) = some .truncated := by
  decide

/-- Every table row runs as the first operation after reset. -/
theorem test_every_row_runs :
    ([0x00, 0x10, 0x20, 0x30, 0x40, 0x42, 0x44, 0x46, 0x48, 0x49].all fun k =>
        (nextOf (step (State.reset.withFetchWord 8 k))).isSome) = true ∧
    ([0x50, 0x60, 0x61, 0x70, 0x80, 0xF0, 0xF1, 0xF2, 0xF3, 0xF4].all fun k =>
        (nextOf (step (State.reset.withFetchWord 8 k))).isSome) = true ∧
    (nextOf (step (State.reset.withFetchWord 32 0x04FBA659))).isSome = true := by decide

/-! ## Reset and the facade (sections 3.3, 3.6) -/

theorem test_reset : (nextOf (exec .reset { armed .awaitBitRise 9 26820 with
      frame := frameOfNumber 0x04800000, dq := [.diag .timingViolation], txBusy := true, txIdx := 30 })).map
      (fun s => ((s.stage, s.ptr, s.dq), s.frame, s.rxEnable, s.wdtPending)) =
    some ((.awaitLeadFall, 0, []), frameOfNumber 0, false, false) := by decide
theorem test_reset_releases : (nextOf (exec .reset (sending 30 .low))).map
    (fun s => (s.dqOverflow, s.txBusy, s.txIdx, s.txLine)) = some (false, false, 0, .released) := by decide
theorem test_start : (nextOf (exec .startReceive (armed .awaitBitRise 12 0))).map
    (fun s => (view s, s.rxEnable, s.wdtPending, s.wdtDeadline)) =
    some (⟨.awaitLeadFall, 0, 0, []⟩, true, true, 101000) := by decide
theorem test_start_without_input :
    (nextOf (exec .startReceive
      { State.reset with params := { Config.Params.ofTestVectors with hasInput := false } })).map
      (fun s => (s.rxEnable, outputs s)) = some (false, [.diag .noInputCapability]) := by decide
theorem test_stop : (nextOf (exec .stopReceive (listening .awaitBitRise 3 0))).map (fun s => (s.rxEnable, view s)) =
    some (false, ⟨.awaitBitRise, 3, 0, []⟩) := by decide

/-! ## The edge operations (section 3.1, by row) -/

/-- Row 1. -/
theorem test_leadfall : (nextOf (exec (.edgeLeadfall 1000 .low) (listening .awaitLeadFall 0 0))).map
    (fun s => (view s, s.wdtPending, s.wdtDeadline)) = some (⟨.awaitLeadRise, 0, 1000, []⟩, true, 101000) := by decide
/-- Row 2. -/
theorem test_leadfall_high : (nextOf (exec (.edgeLeadfall 1000 .high) (listening .awaitLeadFall 0 0))).map
    (fun s => (view s, s.wdtPending)) = some (⟨.awaitLeadFall, 0, 1000, [.diag .levelViolation]⟩, false) := by decide
/-- Row 7. -/
theorem test_leadrise_long : (nextOf (exec (.edgeLeadrise 10501 .high) (armed .awaitLeadRise 0 1000))).map
    (fun s => (view s, s.wdtPending)) = some (⟨.awaitLeadFall, 0, 10501, [.diag .timingViolation]⟩, true) := by decide
/-- Row 35: the counter wrapped. -/
theorem test_leadrise_wraps : (nextOf (exec (.edgeLeadrise 8000 .high) (listening .awaitLeadRise 0 4294966296))).map
    view = some ⟨.awaitBitFall .firstBit, 0, 8000, []⟩ := by decide
/-- Rows 12 and 15. -/
theorem test_bitfall_first : (nextOf (exec (.edgeBitfallFirst 15000 .low)
      (listening (.awaitBitFall .firstBit) 0 10000))).map view = some ⟨.awaitBitRise, 0, 15000, []⟩ ∧
    (nextOf (exec (.edgeBitfallFirst 12250 .low) (listening (.awaitBitFall .firstBit) 0 10000))).map view =
      some ⟨.awaitLeadFall, 0, 12250, [.diag .timingViolation]⟩ := by decide
/-- Rows 18 and 19. -/
theorem test_bitrise_mark : (nextOf (exec (.edgeBitriseMark 15560 .high) (listening .awaitBitRise 7 14500))).map
      view = some ⟨.awaitBitFall .subsequentBit, 7, 15560, []⟩ ∧
    (nextOf (exec (.edgeBitriseMark 15561 .high)
      { listening .awaitBitRise 7 14500 with frame := frameOfNumber 0x04000000 })).map
      (fun s => (view s, s.frame)) =
      some (⟨.awaitLeadFall, 0, 15561, [.diag .timingViolation]⟩, frameOfNumber 0) := by decide
/-- Rows 22 and 24: slot 5 is bit 26 of the frame as a number. -/
theorem test_bitfall_next : (nextOf (exec (.edgeBitfallNext 21680 .low)
      (listening (.awaitBitFall .subsequentBit) 5 20000))).map (fun s => (view s, s.frame)) =
      some (⟨.awaitBitRise, 6, 21680, []⟩, frameOfNumber 0x04000000) ∧
    (nextOf (exec (.edgeBitfallNext 21060 .low)
      { listening (.awaitBitFall .subsequentBit) 5 20000 with frame := frameOfNumber 0xFFFFFFFF })).map
      (fun s => (view s, s.frame)) = some (⟨.awaitBitRise, 6, 21060, []⟩, frameOfNumber 0xFBFFFFFF) := by decide
/-- Row 26: the gap between the two windows. -/
theorem test_bitfall_next_gap : (nextOf (exec (.edgeBitfallNext 21179 .low)
    (listening (.awaitBitFall .subsequentBit) 5 20000))).map view =
    some ⟨.awaitLeadFall, 0, 21179, [.diag .timingViolation]⟩ := by decide
/-- Row 33. -/
theorem test_bitrise_term : (nextOf (exec (.edgeBitriseTerm 98260 .high)
    { listening .awaitBitRise 32 68260 with frame := frameOfNumber 0x04FBA659 })).map (fun s => (view s, s.frame)) =
    some (⟨.awaitLeadFall, 0, 98260, [.validate (frameOfNumber 0x04FBA659)]⟩, frameOfNumber 0) := by decide
/-- Row 34. -/
theorem test_unsubscribed_edge : (nextOf (step (scripted [.event (.edge 500 .low)]
    { listening .awaitBitRise 3 100 with rxEnable := false }))).map view = some ⟨.awaitBitRise, 3, 100, []⟩ := by decide

/-! ## The watchdog and the queue (sections 3.2, 3.4) -/

/-- Rows 1 and 2 of 3.2. -/
theorem test_expire : (nextOf (exec (.wdtExpire 101000) (armed (.awaitBitFall .subsequentBit) 7 0))).map
      (fun s => (view s, s.wdtPending)) = some (⟨.awaitLeadFall, 0, 0, [.diag .timeout]⟩, false) ∧
    (nextOf (exec (.wdtExpire 101000) (armed .awaitLeadFall 0 0))).map (fun s => (view s, s.wdtPending)) =
      some (⟨.awaitLeadFall, 0, 0, []⟩, false) := by decide
/-- Rows 5 and 6 of 3.2. -/
theorem test_expire_stuck : faultOf (exec (.wdtExpire 101000) State.reset) = some .expiryNotPending ∧
    faultOf (exec (.wdtExpire 100999) (armed .awaitLeadFall 0 0)) = some .expiryOutsideWindow ∧
    faultOf (exec (.wdtExpire 101001) (armed .awaitLeadFall 0 0)) = some .expiryOutsideWindow := by decide
/-- R90 bounds the firing in global time: not a whole counter period late, nor is an edge handled after it (R94). -/
theorem test_expire_bound :
    faultOf (exec (.wdtExpire (101000 + 2 ^ 32)) (armed .awaitLeadFall 0 0)) = some .expiryOutsideWindow ∧
    faultOf (step (scripted [.event (.edge 101001 .high)] (armed .awaitBitRise 32 0))) = some .expiryOverdue ∧
    (nextOf (step (scripted [.event (.edge 101000 .high)] (armed .awaitBitRise 32 0)))).isSome = true := by decide
/-- Rows 1 and 2 of 3.4. -/
theorem test_run_validate : (nextOf (exec .dqRunValidate (queued [.validate (frameOfNumber 0x04FBA659)]))).map
      (fun s => (s.dq, outputs s)) = some ([], [.callback 0x04 0xA6]) ∧
    (nextOf (exec .dqRunValidate (queued [.validate (frameOfNumber 0x04FBA658)]))).map
      (fun s => (s.dq, outputs s)) = some ([], [.diag .checksumFailure]) := by decide
/-- Row 4 of 3.4. -/
theorem test_run_diag : (nextOf (exec .dqRunDiag (queued [.diag .timingViolation,
    .validate (frameOfNumber 0x5AA5C33C)]))).map (fun s => (s.dq, outputs s)) =
    some ([.validate (frameOfNumber 0x5AA5C33C)], [.diag .timingViolation]) := by decide
/-- Row 6 of 3.4. -/
theorem test_overflow : (nextOf (exec (.edgeLeadfall 300 .high) { listening .awaitLeadFall 0 200 with
      dq := [.diag .levelViolation, .diag .levelViolation],
      params := { Config.Params.ofTestVectors with queueDepth := 2 } })).map
      (fun s => (s.dq, s.dqOverflow)) = some ([.diag .levelViolation, .diag .levelViolation], true) := by decide
/-- R157: the run's fault mark is set with `dq_overflow`, and RESET clears only the latter (U9, R144). -/
theorem test_fault_mark : (nextOf (exec (.edgeLeadfall 300 .high) { listening .awaitLeadFall 0 200 with
      dq := [.diag .levelViolation], params := { Config.Params.ofTestVectors with queueDepth := 1 } })).map
      (fun s => (s.faulted, (nextOf (exec .reset s)).map fun t => (t.dqOverflow, t.faulted))) =
    some (true, some (false, true)) := by decide

/-! ## The transmitter (sections 3.3 and 3.5) -/

/-- Row 1 of 3.5; offsets of 1.1 and 2.4. -/
theorem test_send : (nextOf (exec (.send 5000 0x04 0xA6) State.reset)).map
    (fun s => ((s.txBusy, s.txT0, s.txIdx, s.txLine), [s.txOff[3], s.txOff[17], s.txOff[49], s.txOff[66]])) =
    some ((true, 5000, 0, .driven .low), [14620, 23580, 53820, 67820]) := by decide
/-- Rows 6 to 8 of 3.3. -/
theorem test_send_refused : refusalOf (exec (.send 0 1 2)
      { State.reset with params := { Config.Params.ofTestVectors with hasOutput := false } }) =
      some .sendWithoutOutput ∧
    refusalOf (exec (.send 0 1 2) (sending 3 .high)) = some .sendWhileBusy ∧
    refusalOf (exec (.send 0 256 0) State.reset) = some .sendOperandOutOfRange := by decide
/-- Rows 3 and 5 of 3.5. -/
theorem test_toggle : (nextOf (exec (.txToggle 14000) (sending 0 .low))).map (fun s => (s.txLine, s.txIdx)) =
      some (.driven .high, 1) ∧
    (nextOf (exec (.txToggle 18500) (sending 1 .high))).map (fun s => (s.txLine, s.txIdx)) =
      some (.driven .low, 2) := by decide
/-- Rows 2, 4 and 7 of 3.5. -/
theorem test_toggle_stuck : faultOf (exec (.txToggle 13999) (sending 0 .low)) = some .toggleNotEnabled ∧
    faultOf (exec (.txToggle 14003) (sending 0 .low)) = some .toggleTooLate ∧
    faultOf (exec (.txToggle 72820) (sending 67 .high)) = some .toggleNotEnabled := by decide
/-- R104 bounds the toggle in global time: not a whole counter period late, nor does time pass the bound. -/
theorem test_toggle_bound : faultOf (exec (.txToggle (14000 + 2 ^ 32)) (sending 0 .low)) = some .toggleTooLate ∧
    faultOf (step (scripted [.event (.edge 14001 .low)] (sending 0 .low))) = some .toggleOverdue ∧
    (nextOf (step (scripted [.event (.edge 14000 .low)] (sending 0 .low)))).isSome = true := by decide
/-- Rows 8 and 9 of 3.5. -/
theorem test_release : (nextOf (exec (.txRelease 72820) (sending 67 .high))).map
      (fun s => (s.txLine, s.txBusy, s.txIdx)) = some (.released, false, 0) ∧
    faultOf (exec (.txRelease 72820) (sending 66 .low)) = some .releaseNotEnabled := by decide

/-! ## The pure functions (section 2) and the frame on the wire -/

theorem test_bits_to_int : bitsToInt [true, false, true, false, false, true, true, false] = 166 ∧
    (nextOf (exec (.bitsToInt [false, false, true]) State.reset)).map outputs = some [.returned (.nat 1)] := by decide
theorem test_int_to_bits : intToBits 0x1A6 8 = [true, false, true, false, false, true, true, false] ∧
    (nextOf (exec (.intToBits 1 3) State.reset)).map outputs = some [.returned (.bits [false, false, true])] := by
  decide
theorem test_validate_frame : validateFrame (frameOfNumber 0x5AA5C33C) = .valid 0x5A 0xC3 ∧
    (nextOf (exec (.validateFrame (frameOfNumber 0x04FAA659)) State.reset)).map outputs =
      some [.returned (.verdict .invalid)] := by decide
theorem test_tx_schedule : (txSchedule 0x80 0x01).bits = (frameOfNumber 0x807F01FE).toList ∧
    (txSchedule 0x104 0x1A6).bits = (frameOfNumber 0x04FBA659).toList ∧
    (nextOf (exec (.txSchedule 0x80 0x01) State.reset)).map outputs =
      some [.returned (.schedule (txSchedule 0x80 0x01))] := by decide
theorem test_within : within 9501 9000 = false ∧ within 60 560 = true ∧ within 4294958796 9000 = false ∧
    (nextOf (exec (.within 1180 1680) State.reset)).map outputs = some [.returned (.bool true)] := by decide
/-- Program P1: the first five edges and the last of the 68. -/
theorem test_frame : (nextOf (exec (.frame 1000 0x04 0xFB 0xA6 0x59) State.reset)).map
      (fun s => (s.script.length, s.script.take 5, s.script.drop 67)) =
    some (68, [.event (fall 1000), .event (rise 10000), .event (fall 14500), .event (rise 15060),
      .event (fall 15620)], [.event (rise 68820)]) := by decide

/-! ## Witnesses: for each statement with hypotheses, states and operands that meet them all. A witness is named by
the first words of its statement; where it serves others too, its docstring names them. -/

theorem witness_StartReceive : State.reset.params.hasInput = true ∧
    ({ State.reset with params := { Config.Params.ofTestVectors with hasInput := false } } : State).params.hasInput =
      false := by decide
theorem witness_ResetKeeps : State.reset.pinMode = .input ∧ (sending 0 .low).pinMode = .output := by decide
theorem witness_LeadFall : Selected .awaitLeadFall (listening .awaitLeadFall 0 0) := by decide
theorem witness_LeadRise : Selected .awaitLeadRise (listening .awaitLeadRise 0 1000) ∧
    [9500, 10500, 9499, 10501].map (fun t => counterDiff 32 t 1000) = [8500, 9500, 8499, 9501] := by decide
theorem witness_BitFallFirst : Selected (.awaitBitFall .firstBit) (listening (.awaitBitFall .firstBit) 0 10000) ∧
    [14000, 15000, 13999, 15001].map (fun t => counterDiff 32 t 10000) = [4000, 5000, 3999, 5001] := by decide
theorem witness_BitRiseMark : Selected .awaitBitRise (listening .awaitBitRise 31 14500) ∧
    [14560, 15560, 14559, 15561].map (fun t => counterDiff 32 t 14500) = [60, 1060, 59, 1061] := by decide
theorem witness_BitFallNext :
    Selected (.awaitBitFall .subsequentBit) (listening (.awaitBitFall .subsequentBit) 31 20000) ∧
    (listening (.awaitBitFall .subsequentBit) 31 20000).ptr ≤ 31 ∧
    [20060, 21060, 21180, 22180, 20059, 21061, 21179, 22181].map (fun t => counterDiff 32 t 20000) =
      [60, 1060, 1180, 2180, 59, 1061, 1179, 2181] := by decide
theorem witness_Terminal : SelectedTerm (listening .awaitBitRise 32 68260) := by decide
theorem witness_NotSelected : ¬Selected .awaitLeadFall State.reset ∧ ¬Selected .awaitLeadRise State.reset ∧
    ¬Selected (.awaitBitFall .firstBit) State.reset ∧ ¬Selected .awaitBitRise (listening .awaitBitRise 32 0) ∧
    ¬Selected (.awaitBitFall .subsequentBit) State.reset ∧ ¬SelectedTerm (listening .awaitBitRise 31 0) := by decide
theorem witness_UnsubscribedEdge : let s := scripted [.event (.edge 0 .low), .event .run] State.reset
    s.script = .event (.edge 0 .low) :: [.event .run] ∧ OnTime 0 s ∧ s.rxEnable = false := by decide
theorem witness_WatchdogExpiry : let s := armed .awaitBitRise 32 0; let q := armed .awaitLeadFall 0 0
    s.wdtPending = true ∧ counterDiff 32 101000 s.wdtDeadline ≤ s.params.wdtLatencyMax ∧ s.stage ≠ .awaitLeadFall ∧
    s.wdtArmedAt ≤ 101000 ∧ 101000 ≤ s.wdtArmedAt + 100000 + s.params.wdtLatencyMax ∧
    q.wdtPending = true ∧ counterDiff 32 101000 q.wdtDeadline ≤ q.params.wdtLatencyMax ∧
    q.wdtArmedAt ≤ 101000 ∧ 101000 ≤ q.wdtArmedAt + 100000 + q.params.wdtLatencyMax ∧
    q.stage = .awaitLeadFall := by decide
theorem witness_WatchdogStuck : State.reset.wdtPending = false ∧ (armed .awaitLeadFall 0 0).wdtPending = true ∧
    (armed .awaitLeadFall 0 0).params.wdtLatencyMax < counterDiff 32 101001 101000 ∧
    (armed .awaitLeadFall 0 0).params.wdtLatencyMax < counterDiff 32 100999 101000 ∧
    999 < (armed .awaitLeadFall 0 0).wdtArmedAt ∧ (armed .awaitLeadFall 0 0).wdtArmedAt + 100000 + 0 < 101001 := by
  decide
/-- An expiry and a toggle both due at 101000, the toggle with a lateness bound of 87000, and the two engines' events
at the head of the script. -/
theorem witness_Windows : let w := { armed .awaitLeadRise 0 1000 with tau := 1000 }
    let s := { sending 0 .low with
      tau := 14000, wdtPending := true, wdtDeadline := 101000, wdtArmedAt := 1000,
      params := { Config.Params.ofTestVectors with txLatencyMax := 87000 } }
    w.params.Ok ∧ ClockInv w ∧ WidthInv w ∧ w.wdtPending = true ∧ w.tau ≤ 101000 ∧ s.params.Ok ∧ ClockInv s ∧
    WidthInv s ∧ s.wdtPending = true ∧ s.txBusy = true ∧ s.txIdx = (0 : Fin 67).val ∧
    101000 ≤ s.wdtArmedAt + 100000 + s.params.wdtLatencyMax ∧
    101000 ≤ s.txStartedAt + s.txOff[(0 : Fin 67)] + s.params.txLatencyMax ∧
    (nextOf (step (scripted [.event (.wdt 101000)] s))).isSome = true ∧
    (nextOf (step (scripted [.event (.txt 101000)] s))).isSome = true := by decide
/-- The second half: an arm step moves the deadline. -/
theorem witness_NothingCancels :
    (nextOf (exec .startReceive (armed .awaitBitRise 3 0))).isSome = true ∧
    (armed .awaitBitRise 3 0).wdtPending = true ∧ Instr.startReceive ≠ .reset ∧
    (nextOf (exec (.edgeLeadfall 2000 .low) (armed .awaitLeadFall 0 0))).map (·.wdtDeadline) = some 102000 ∧
    (armed .awaitLeadFall 0 0).wdtDeadline ≠ 102000 := by decide
theorem witness_ValidateItem : (queued [.validate (frameOfNumber 0x04FBA659)]).dq =
      .validate (frameOfNumber 0x04FBA659) :: [] ∧
    validateFrame (frameOfNumber 0x04FBA659) = .valid 0x04 0xA6 ∧
    validateFrame (frameOfNumber 0x04FBA658) = .invalid := by decide
theorem witness_DiagItem : (queued [.diag .timeout]).dq = .diag .timeout :: [] := by decide
theorem witness_QueueStuck : (queued []).dq = [] ∧
    (queued [.validate clearFrame]).dq = .validate clearFrame :: [] := by decide
theorem witness_OverflowSticky : let s := { listening .awaitLeadFall 0 0 with dqOverflow := true }
    (nextOf (exec .stopReceive s)).isSome = true ∧ Instr.stopReceive ≠ .reset ∧ s.dqOverflow = true := by decide
theorem witness_OverflowMeansFull : let s := { listening .awaitLeadFall 0 200 with
      dq := [.diag .timeout], params := { Config.Params.ofTestVectors with queueDepth := 1 } }
    (nextOf (exec (.edgeLeadfall 300 .high) s)).map (fun t => (t.dqOverflow, t.faulted)) = some (true, true) ∧
    s.dqOverflow = false := by decide
theorem witness_Send : State.reset.params.hasOutput = true ∧ State.reset.txBusy = false ∧ 255 ≤ 255 := by decide
/-- The first and the last boundary, the latter late by the whole of `TX_LATENCY_MAX`. -/
theorem witness_Toggle : let s := sending 0 .low
    let q := { sending 66 .low with params := { Config.Params.ofTestVectors with txLatencyMax := 3 } }
    s.txBusy = true ∧ s.txIdx = (0 : Fin 67).val ∧ s.txOff[(0 : Fin 67)] ≤ counterDiff 32 14000 s.txT0 ∧
    s.txStartedAt ≤ 14000 ∧ 14000 ≤ s.txStartedAt + s.txOff[(0 : Fin 67)] + s.params.txLatencyMax ∧
    q.txBusy = true ∧ q.txIdx = (66 : Fin 67).val ∧ q.txOff[(66 : Fin 67)] ≤ counterDiff 32 72823 q.txT0 ∧
    q.txStartedAt ≤ 72823 ∧ 72823 ≤ q.txStartedAt + q.txOff[(66 : Fin 67)] + q.params.txLatencyMax := by decide
theorem witness_ToggleStuck : let s := sending 0 .low
    State.reset.txBusy = false ∧ 67 ≤ (sending 67 .high).txIdx ∧ s.txBusy = true ∧ s.txIdx = (0 : Fin 67).val ∧
    counterDiff 32 13999 s.txT0 < s.txOff[(0 : Fin 67)] ∧ 4999 < s.txStartedAt ∧
    s.txOff[(0 : Fin 67)] ≤ counterDiff 32 14001 s.txT0 ∧
    s.txStartedAt + s.txOff[(0 : Fin 67)] + s.params.txLatencyMax < 14001 := by decide
theorem witness_Release : (sending 67 .high).txBusy = true ∧ (sending 67 .high).txIdx = 67 ∧
    State.reset.txBusy = false ∧ (sending 66 .low).txIdx ≠ 67 := by decide
theorem witness_CannotBeDisturbed : (nextOf (exec .startReceive (sending 5 .high))).isSome = true ∧
    (sending 5 .high).txBusy = true ∧ Instr.startReceive ≠ .reset := by decide
/-- For CodecLaws and IntToBitsClosedForm. -/
theorem witness_Codec : 255 < 2 ^ 8 ∧ 7 < 8 := by decide
/-- For FrameLengthCountsTheOnes and ScheduleSizesAndTruncation. -/
theorem witness_ValidFrame : validateFrame (frameOfNumber 0x04FBA659) ≠ .invalid ∧
    (List.replicate 32 true).length = 32 := by decide
/-- One script line of each kind, each selecting its operation. -/
theorem witness_EventRuns : let line (e : Event) (s : State) := scripted [.event e] s
    (line .reset State.reset).script = [.event .reset] ∧ OnTime 0 (line (.edge 0 .low) State.reset) ∧
    Selected .awaitLeadFall (line (.edge 0 .low) (listening .awaitLeadFall 0 0)) ∧
    Selected .awaitLeadRise (line (.edge 0 .low) (listening .awaitLeadRise 0 0)) ∧
    Selected (.awaitBitFall .firstBit) (line (.edge 0 .low) (listening (.awaitBitFall .firstBit) 0 0)) ∧
    Selected (.awaitBitFall .subsequentBit) (line (.edge 0 .low) (listening (.awaitBitFall .subsequentBit) 31 0)) ∧
    Selected .awaitBitRise (line (.edge 0 .low) (listening .awaitBitRise 31 0)) ∧
    SelectedTerm (line (.edge 0 .low) (listening .awaitBitRise 32 0)) ∧
    (line .run (queued [.validate clearFrame])).dq = .validate clearFrame :: [] ∧
    (line .run (queued [.diag .timeout])).dq = .diag .timeout :: [] := by decide
/-- For StepRunsTheDecodedWord and OnlyEncodingsDecode. -/
theorem witness_StepRunsTheWord : let s := scripted [.word .key [0x70, 5, 0, 0, 0, 0, 0, 0, 0, 9]] State.reset
    s.script = .word .key [0x70, 5, 0, 0, 0, 0, 0, 0, 0, 9] :: [] ∧
    read (decode .key [0x70, 5, 0, 0, 0, 0, 0, 0, 0, 9]) = some (.txToggle 5, [9]) ∧
    (Instr.txToggle 5).time = some 5 ∧ OnTime 5 s := by decide
/-- The head of the script as an event and as a word, at a time before the global time, past the latest time of a
pending expiry, and past that of the next toggle. -/
theorem witness_StepWithoutAnOperation : State.reset.script = [] ∧
    (Event.wdt 4).time = some 4 ∧ 4 < ({ State.reset with tau := 5 } : State).tau ∧
    read (decode .key [0x70, 4, 0, 0, 0, 0, 0, 0, 0]) = some (.txToggle 4, []) ∧ (Instr.txToggle 4).time = some 4 ∧
    (armed .awaitBitRise 3 0).tau ≤ 101001 ∧ (armed .awaitBitRise 3 0).wdtPending = true ∧
    (armed .awaitBitRise 3 0).wdtArmedAt + 100000 + (armed .awaitBitRise 3 0).params.wdtLatencyMax < 101001 ∧
    (sending 0 .low).tau ≤ 14001 ∧ (sending 0 .low).wdtPending = false ∧ (sending 0 .low).txBusy = true ∧
    (sending 0 .low).txIdx = (0 : Fin 67).val ∧
    (sending 0 .low).txStartedAt + (sending 0 .low).txOff[(0 : Fin 67)] + 0 < 14001 ∧
    errorOf (decode .key [0x41]) = some (.noSuchKey 0x41) ∧ (scripted [.event .run] State.reset).dq = [] := by decide
/-- For DecodeOfEncodeIsTheOperation, at the largest operands. -/
theorem witness_WellFormed : (Instr.send (2 ^ 64 - 1) 255 255).WellFormed ∧ (Instr.bitsToInt []).WellFormed ∧
    (Instr.frame (2 ^ 64 - 1) 0xFF 0 0 0xFF).WellFormed := by decide
/-- For StepKeepsTheReceiverInvariants; the reset clause has test_reset. -/
theorem witness_RxInv : let s := armed .awaitBitRise 32 0
    RxInv (scripted [.event (.edge 1 .high)] s) ∧
    (nextOf (step (scripted [.event (.edge 1 .high)] s))).isSome = true := by decide
/-- For StepKeepsTheTransmitterInvariants. -/
theorem witness_TxInv : let s := scripted [.event (.txt 14000)] (sending 0 .low)
    TxInv s ∧ (nextOf (step s)).isSome = true := by decide
/-- For StepKeepsTheDeadlines: an attempt and a transmission in progress, and the toggle at its boundary. -/
theorem witness_Deadlines : let s := scripted [.event (.txt 14000)] { sending 0 .low with
      tau := 6000, rxEnable := true, stage := .awaitLeadRise, lastTs := 6000, wdtPending := true,
      wdtDeadline := 106000, wdtArmedAt := 6000 }
    RxInv s ∧ TxInv s ∧ ClockInv s ∧
    (nextOf (step s)).map (fun t => (t.stage, t.tau, t.txIdx)) = some (.awaitLeadRise, 14000, 1) := by decide
/-- For StepKeepsWidthsAndQueueItems and ParametersStayAndTimeNeverDecreases. -/
theorem witness_Widths : let s := scripted [.event .run] (queued [.diag .timeout])
    WidthInv s ∧ QueueInv s ∧ (nextOf (step s)).isSome = true := by decide
/-- Every clause of R73's table at the ends of its windows. -/
theorem witness_StageMoves :
    ([(Instr.edgeLeadfall 0 .low, listening .awaitLeadFall 0 0), (.edgeLeadfall 0 .high, listening .awaitLeadFall 0 0),
      (.edgeLeadrise 8500 .high, listening .awaitLeadRise 0 0), (.edgeLeadrise 9501 .high, listening .awaitLeadRise 0 0),
      (.edgeBitfallFirst 5000 .low, listening (.awaitBitFall .firstBit) 0 0),
      (.edgeBitfallFirst 3999 .low, listening (.awaitBitFall .firstBit) 0 0),
      (.edgeBitriseMark 60 .high, listening .awaitBitRise 31 0),
      (.edgeBitriseMark 1061 .high, listening .awaitBitRise 31 0),
      (.edgeBitfallNext 1060 .low, listening (.awaitBitFall .subsequentBit) 31 0),
      (.edgeBitfallNext 1180 .low, listening (.awaitBitFall .subsequentBit) 31 0),
      (.edgeBitfallNext 1179 .low, listening (.awaitBitFall .subsequentBit) 31 0),
      (.edgeBitriseTerm 0 .high, listening .awaitBitRise 32 0), (.wdtExpire 101000, armed .awaitBitRise 3 0),
      (.startReceive, listening .awaitBitRise 3 0), (.stopReceive, listening .awaitBitRise 3 0)].map
        fun p => (nextOf (exec p.1 p.2)).map (·.stage)) =
    [some .awaitLeadRise, some .awaitLeadFall, some (.awaitBitFall .firstBit), some .awaitLeadFall,
      some .awaitBitRise, some .awaitLeadFall, some (.awaitBitFall .subsequentBit), some .awaitLeadFall,
      some .awaitBitRise, some .awaitBitRise, some .awaitLeadFall, some .awaitLeadFall, some .awaitLeadFall,
      some .awaitLeadFall, some .awaitBitRise] := by decide
/-- For ReceiverAndTransmitterShareNothing, both clauses. -/
theorem witness_SharesNothing : (nextOf (exec (.txToggle 14000) (sending 0 .low))).isSome = true ∧
    ofTransmitter (.txToggle 14000) = true ∧ (nextOf (exec .stopReceive State.reset)).isSome = true ∧
    ofTransmitter .stopReceive = false := by decide
/-- For ContextsKeepToTheirOwn, QueueIsFirstInFirstOut. -/
theorem witness_Contexts : inInterruptContext (.edgeLeadfall 0 .high) = true ∧
    (nextOf (exec (.edgeLeadfall 0 .high) (listening .awaitLeadFall 0 0))).isSome = true ∧
    inInterruptContext .dqRunDiag = false ∧
    (nextOf (exec .dqRunDiag (queued [.diag .timeout]))).isSome = true := by decide
theorem witness_Callback : let s := queued [.validate (frameOfNumber 0x04FBA659)]
    (nextOf (exec .dqRunValidate s)).map (fun t => t.trace.drop s.trace.length) =
      some [⟨0, .callback 0x04 0xA6⟩] := by decide
theorem witness_Recovery : let s := armed .awaitLeadRise 0 1000
    RxInv s ∧ (nextOf (exec (.edgeLeadrise 2000 .high) s)).map (fun t => (t.stage, t.rxEnable, t.tau)) =
      some (.awaitLeadFall, true, 0) ∧
    (nextOf (exec (.edgeLeadrise 2000 .high) s)).all (fun t => decide (OnTime 2001 t)) = true := by decide
theorem witness_WrapSafeDelta : (listening .awaitLeadRise 0 4294966296).lastTs = 4294966296 % 2 ^ 32 ∧
    4294966296 ≤ 2 ^ 32 + 8000 ∧ 2 ^ 32 + 8000 < 4294966296 + 2 ^ 32 := by decide
/-- Section 5.1 a little shorter: every duration 479 long, the trail 500. -/
theorem witness_RoundTrip : let ds := (txSchedule 0x04 0xA6).durations.dropLast.map (· + 479) ++ [1060]
    let s := scripted ((wave 1000 ds).map .event ++ [.event .run]) (listening .awaitLeadFall 0 0)
    s.params.Ok ∧ s.rxEnable = true ∧ s.stage = .awaitLeadFall ∧ s.ptr = 0 ∧ s.dq = [] ∧ OnTime 1000 s ∧
    s.txBusy = false ∧ ds.length = 67 ∧ (∀ k < 67, within (ds.getD k 0) ((txSchedule 0x04 0xA6).durations.getD k 0) = true) ∧
    ds.sum < 100000 ∧ s.script = (wave 1000 ds).map .event ++ [.event .run] := by decide
/-- Every toggle with the whole lateness of 3, the release at once. -/
theorem witness_Transmission : let x := txSchedule 0x04 0xA6; let late := List.replicate 67 3
    let toggleAt (k : Nat) : Nat := 5000 + x.offsets.getD k 0 + late.getD k 0
    let s := scripted (.event (.send 5000 0x04 0xA6) ::
        ((List.range 67).map fun k => .event (.txt (toggleAt k))) ++ [.event (.txr 72823)])
      { State.reset with params := { Config.Params.ofTestVectors with txLatencyMax := 3 } }
    s.params.Ok ∧ s.params.hasOutput = true ∧ s.txBusy = false ∧ s.tau ≤ 5000 ∧ s.wdtPending = false ∧
    late.length = 67 ∧ (∀ k < 67, late.getD k 0 ≤ s.params.txLatencyMax) ∧
    (∀ k < 66, toggleAt k ≤ toggleAt (k + 1)) ∧ toggleAt 66 ≤ 72823 ∧ s.script.length = 69 := by decide

end Sys2Proof.Tests
end

section
/-! The scope family: what one step of the machine runs. -/

namespace Sys2Proof.Proofs

open Sys2Proof.Machine Sys2Proof.Safety

/-- Settles O42: the word is fetched by `step_word`, which takes it on time and runs what it decodes to. -/
theorem stepRunsTheDecodedWord : Obligations.StepRunsTheDecodedWord := by
  intro s fmt bytes tail rest i hscript hdecode htime
  exact step_word hscript hdecode htime

end Sys2Proof.Proofs
end

section
/-! What one operation of `exec` can leave, said once for all operations, and what it does to the parameters and the
queue. The invariants of the step are read off these. -/

namespace Sys2Proof.Proofs

open Sys2Proof.Machine Sys2Proof.Safety

/-! ## What one operation does -/

/-- The operation that runs a work item from the head of the queue (47_deferred_executor.md R115, R116). -/
def runOf : WorkItem → Instr
  | .validate _ => .dqRunValidate
  | .diag _ => .dqRunDiag

/-- The state an operation leaves, one constructor per outcome. Kept of the guards are those the invariants need; the
others are in the operation's own inversion lemma of Laws/Exec. -/
inductive Effect (s : State) : Instr → State → Prop
  | reset : Effect s .reset (resetRegisters s)
  | resetDriven : Effect s .reset (emit (.txLine .released) (resetRegisters s))
  | subscribed : Effect s .startReceive (subscribe true (attemptReset s))
  | warned : Effect s .startReceive (emit (.diag .noInputCapability) s)
  | unsubscribed : Effect s .stopReceive (subscribe false s)
  | sent (t user data : Nat) : Effect s (.send t user data) (startTransmission t user data s)
  | aborted (i : Instr) (kind : DiagKind) (t : Nat) : inInterruptContext i = true →
      queuedKind (.diag kind) = true → Effect s i (abort kind (stamp t s))
  | opened (t : Nat) : Effect s (.edgeLeadfall t .low) (openAttempt t (stamp t s))
  | leadRisen (t : Nat) (lvl : Level) : s.stage = .awaitLeadRise →
      Effect s (.edgeLeadrise t lvl) (goto (.awaitBitFall .firstBit) (stamp t s))
  | leadFallen (t : Nat) (lvl : Level) : s.stage = .awaitBitFall .firstBit →
      Effect s (.edgeBitfallFirst t lvl) (goto .awaitBitRise (stamp t s))
  | marked (t : Nat) (lvl : Level) : Selected .awaitBitRise s →
      Effect s (.edgeBitriseMark t lvl) (goto (.awaitBitFall .subsequentBit) (stamp t s))
  | stored (t : Nat) (lvl : Level) (b : Bool) : s.stage = .awaitBitFall .subsequentBit →
      Effect s (.edgeBitfallNext t lvl) (storeBit b (stamp t s))
  | completed (t : Nat) (lvl : Level) :
      Effect s (.edgeBitriseTerm t lvl) (attemptReset (enqueue (.validate s.frame) (stamp t s)))
  | timedOut (t : Nat) : Effect s (.wdtExpire t) (enqueue (.diag .timeout) (attemptReset (disarm s)))
  | disarmed (t : Nat) : s.stage = .awaitLeadFall → Effect s (.wdtExpire t) (disarm s)
  | ran (x : WorkItem) (rest : List WorkItem) (o : Output) : s.dq = x :: rest →
      Effect s (runOf x) (emit o (withQueue rest s))
  | toggled (t : Nat) : Effect s (.txToggle t) (togglePin (nextBoundary s))
  | released (t : Nat) : Effect s (.txRelease t) (releasePin (endTransmission s))
  | returned (i : Instr) (v : FnValue) : i.agent = none → Effect s i (emit (.returned v) s)
  | framed (t0 : Nat) (user userC data dataC : Byte) : Effect s (.frame t0 user userC data dataC)
      { s with script := (rawFrame t0 user userC data dataC).map .event ++ s.script }

/-- An operation that answers a next state leaves one of the listed effects. -/
theorem exec_effect {i : Instr} {s t : State} (h : exec i s = .next t) : Effect s i t := by
  have timing (j : Instr) (n : Nat) (hj : inInterruptContext j = true) :
      Effect s j (Safety.aborted .timingViolation n s) := abort_stamp _ n s ▸ .aborted j _ n hj rfl
  cases i with
  | reset =>
    obtain ⟨-, rfl⟩ | ⟨-, rfl⟩ := execReset_next h
    · exact .reset
    · exact .resetDriven
  | startReceive =>
    obtain ⟨-, rfl⟩ | ⟨-, rfl⟩ := execStartReceive_next h
    · exact .subscribed
    · exact .warned
  | stopReceive => exact execStopReceive_next h ▸ .unsubscribed
  | send n user data =>
    obtain ⟨-, -, -, -, rfl⟩ := execSend_next h
    exact .sent n user data
  | edgeLeadfall n lvl =>
    obtain ⟨-, ⟨-, rfl⟩ | ⟨rfl, rfl⟩⟩ := execEdgeLeadfall_next h
    · exact abort_stamp _ n s ▸ .aborted _ _ n rfl rfl
    · exact .opened n
  | edgeLeadrise n lvl =>
    obtain ⟨⟨-, hstage, -⟩, ⟨-, rfl⟩ | ⟨-, rfl⟩⟩ := execEdgeLeadrise_next (lvl := lvl) h
    · exact .leadRisen n lvl hstage
    · exact timing _ n rfl
  | edgeBitfallFirst n lvl =>
    obtain ⟨⟨-, hstage, -⟩, ⟨-, rfl⟩ | ⟨-, rfl⟩⟩ := execEdgeBitfallFirst_next (lvl := lvl) h
    · exact .leadFallen n lvl hstage
    · exact timing _ n rfl
  | edgeBitriseMark n lvl =>
    obtain ⟨hsel, ⟨-, rfl⟩ | ⟨-, rfl⟩⟩ := execEdgeBitriseMark_next (lvl := lvl) h
    · exact .marked n lvl hsel
    · exact timing _ n rfl
  | edgeBitfallNext n lvl =>
    obtain ⟨⟨-, hstage, -⟩, ⟨b, -, rfl⟩ | ⟨-, rfl⟩⟩ := execEdgeBitfallNext_next (lvl := lvl) h
    · exact .stored n lvl b hstage
    · exact timing _ n rfl
  | edgeBitriseTerm n lvl =>
    obtain ⟨-, rfl⟩ := execEdgeBitriseTerm_next (lvl := lvl) h
    exact .completed n lvl
  | wdtExpire n =>
    obtain ⟨-, -, ⟨-, rfl⟩ | ⟨hidle, rfl⟩⟩ := execWdtExpire_next h
    · exact .timedOut n
    · exact .disarmed n hidle
  | dqRunValidate =>
    obtain ⟨f, rest, hq, ⟨_, _, -, rfl⟩ | ⟨-, rfl⟩⟩ := execDqRunValidate_next h
    · exact .ran (.validate f) rest _ hq
    · exact .ran (.validate f) rest _ hq
  | dqRunDiag =>
    obtain ⟨kind, rest, hq, rfl⟩ := execDqRunDiag_next h
    exact .ran (.diag kind) rest _ hq
  | txToggle n =>
    obtain ⟨-, -, -, -, -, rfl⟩ := execTxToggle_next h
    exact .toggled n
  | txRelease n =>
    obtain ⟨-, -, rfl⟩ := execTxRelease_next (t := n) h
    exact .released n
  | bitsToInt | intToBits | validateFrame | txSchedule | within =>
    exact returned_next h ▸ .returned _ _ rfl
  | frame t0 user userC data dataC => exact execFrame_next h ▸ .framed t0 user userC data dataC

/-- No operation changes the platform's parameters (70_reset_and_hazards.md R146). -/
theorem exec_params {i : Instr} {s t : State} (h : exec i s = .next t) : t.params = s.params := by
  cases exec_effect h <;> simp

/-! ## What one operation does to the queue -/

/-- What an operation does to the queue and its two marks: nothing; RESET empties it and clears the overflow mark; an
interrupt adds an item or, on a full queue, sets both marks; a DQ.RUN takes the head. -/
inductive QueueMove (i : Instr) (s t : State) : Prop
  | kept : SameQueue s t → QueueMove i s t
  | cleared : i = .reset → t.dq = [] → t.dqOverflow = false → t.faulted = s.faulted → QueueMove i s t
  | appended (x : WorkItem) : inInterruptContext i = true → queuedKind x = true → HasRoom s →
      t.dq = s.dq ++ [x] → t.dqOverflow = s.dqOverflow → t.faulted = s.faulted → QueueMove i s t
  | dropped : inInterruptContext i = true → ¬HasRoom s → t.dq = s.dq → t.dqOverflow = true → t.faulted = true →
      QueueMove i s t
  | taken (x : WorkItem) : i = runOf x → s.dq = x :: t.dq → t.dqOverflow = s.dqOverflow → t.faulted = s.faulted →
      QueueMove i s t

/-- Enqueueing from a state with the same queue, marks and parameters appends the item or drops it. -/
theorem queueMove_enqueue {i : Instr} {s s0 t : State} {x : WorkItem} (hi : inInterruptContext i = true)
    (hx : queuedKind x = true) (h0 : SameQueue s s0) (hp : s0.params = s.params)
    (ht : SameQueue (enqueue x s0) t) : QueueMove i s t := by
  obtain ⟨hdq, hov, hf⟩ := h0
  obtain ⟨tdq, tov, tf⟩ := ht
  obtain ⟨hroom, he⟩ | ⟨hfull, he⟩ := enqueue_cases x s0 <;> rw [he] at tdq tov tf
  · rw [HasRoom, hdq, hp] at hroom
    exact .appended x hi hx hroom (by rw [tdq, hdq]) (tov.trans hov) (tf.trans hf)
  · rw [HasRoom, hdq, hp] at hfull
    exact .dropped hi hfull (tdq.trans hdq) tov tf

theorem exec_queueMove {i : Instr} {s t : State} (h : exec i s = .next t) : QueueMove i s t := by
  cases exec_effect h with
  | reset | resetDriven => exact .cleared rfl rfl rfl rfl
  | aborted _ kind n hi hkind =>
    exact queueMove_enqueue (s0 := attemptReset (stamp n s)) hi hkind ⟨rfl, rfl, rfl⟩ rfl ⟨rfl, rfl, rfl⟩
  | completed n =>
    exact queueMove_enqueue (s0 := stamp n s) rfl rfl ⟨rfl, rfl, rfl⟩ rfl ⟨rfl, rfl, rfl⟩
  | timedOut =>
    exact queueMove_enqueue (s0 := attemptReset (disarm s)) rfl rfl ⟨rfl, rfl, rfl⟩ rfl ⟨rfl, rfl, rfl⟩
  | ran x rest o hq => exact .taken x rfl hq rfl rfl
  | subscribed | warned | unsubscribed | sent | opened | leadRisen | leadFallen | marked | stored | disarmed | toggled
  | released | returned | framed => exact .kept ⟨rfl, rfl, rfl⟩

theorem exec_keeps_queueBound {i : Instr} {s t : State} (h : exec i s = .next t)
    (hs : s.dq.length ≤ s.params.queueDepth) : t.dq.length ≤ t.params.queueDepth := by
  rw [exec_params h]
  cases exec_queueMove h with
  | kept hsame => rwa [hsame.1]
  | cleared _ hdq => simp [hdq]
  | appended x _ _ hroom hdq =>
    rw [hdq, List.length_append]
    exact hroom
  | dropped _ _ hdq => rwa [hdq]
  | taken x _ hdq =>
    rw [hdq, List.length_cons] at hs
    omega

theorem exec_keeps_queueInv {i : Instr} {s t : State} (h : exec i s = .next t) (hs : QueueInv s) : QueueInv t := by
  obtain ⟨hitems, hmark⟩ := hs
  cases exec_queueMove h with
  | kept hsame =>
    obtain ⟨hdq, hov, hf⟩ := hsame
    rw [QueueInv, hdq, hov, hf]
    exact ⟨hitems, hmark⟩
  | cleared _ hdq hov => exact ⟨by rw [hdq]; rfl, by simp [hov]⟩
  | appended x _ hx _ hdq hov hf =>
    rw [QueueInv, hdq, hov, hf]
    exact ⟨by simp only [List.all_append, hitems, hx, List.all_cons, List.all_nil, Bool.and_self], hmark⟩
  | dropped _ _ hdq _ hf => exact ⟨by rwa [hdq], fun _ => hf⟩
  | taken x _ hdq hov hf =>
    rw [hdq, List.all_cons, Bool.and_eq_true] at hitems
    exact ⟨hitems.2, by rwa [hov, hf]⟩

end Sys2Proof.Proofs
end

section
/-! The state family (10_state.md): the receiver's invariants, the widths, the overflow mark, RESET and the reset state. -/

namespace Sys2Proof.Proofs

open Sys2Proof.Machine Sys2Proof.Safety

/-! ## The receiver's invariants -/

theorem clearFrame_getElem (i : Fin 32) : clearFrame[i] = false := by simp [clearFrame]

/-- At the start of an attempt, or idle, the pointer is 0 and the frame clear. -/
theorem rxInv_of_clear {t : State} (hptr : t.ptr = 0) (hframe : t.frame = clearFrame)
    (hwdt : t.stage ≠ .awaitLeadFall → t.wdtPending = true) (hdq : t.dq.length ≤ t.params.queueDepth) : RxInv t := by
  refine ⟨by omega, fun _ => hptr, fun _ => hptr, fun _ => by omega, fun i _ => ?_, hwdt, hdq⟩
  rw [hframe]
  exact clearFrame_getElem i

/-- A stage entered with pointer, frame and pending expiry kept meets them where the pointer suits the stage. -/
theorem rxInv_of_stage {s t : State} (hs : RxInv s) (hptr : t.ptr = s.ptr) (hframe : t.frame = s.frame)
    (hwdt : t.stage ≠ .awaitLeadFall → t.wdtPending = true)
    (h0 : t.stage = .awaitLeadFall ∨ t.stage = .awaitLeadRise ∨ t.stage = .awaitBitFall .firstBit → s.ptr = 0)
    (h31 : t.stage = .awaitBitFall .subsequentBit → s.ptr ≤ 31)
    (hdq : t.dq.length ≤ t.params.queueDepth) : RxInv t := by
  obtain ⟨hle, -, -, -, hclear, -, -⟩ := hs
  rw [RxInv, hptr, hframe]
  exact ⟨hle, fun h => h0 (.inl h), fun h => h0 (.inr h), h31, hclear, hwdt, hdq⟩

/-- They speak of the stage, the pointer, the frame, the pending expiry and the queue's length alone. -/
theorem rxInv_of_same {s t : State} (hs : RxInv s) (hstage : t.stage = s.stage) (hptr : t.ptr = s.ptr)
    (hframe : t.frame = s.frame) (hwdt : t.wdtPending = s.wdtPending)
    (hdq : t.dq.length ≤ t.params.queueDepth) : RxInv t := by
  have ⟨_, hidle, hlead, hsub, _, hpend, _⟩ := hs
  refine rxInv_of_stage hs hptr hframe ?_ ?_ ?_ hdq <;> rw [hstage]
  · rwa [hwdt]
  · exact fun h => h.elim hidle hlead
  · exact hsub

/-- Storing a bit below the end of the frame leaves the slots from the new pointer on clear. -/
theorem rxInv_storeBit {s : State} (b : Bool) (hs : RxInv s) (hsub : s.stage = .awaitBitFall .subsequentBit) :
    RxInv (storeBit b s) := by
  obtain ⟨-, -, -, hptr, hclear, hpend, hdq⟩ := hs
  have hle : s.ptr ≤ 31 := hptr hsub
  refine ⟨by simp; omega, by simp, by simp, by simp, fun i hi => ?_, fun _ => hpend (by simp [hsub]), hdq⟩
  have hlt : s.ptr < i.val := hi
  have hkeep : (storeBit b s).frame[i] = s.frame[i] := Vector.getElem_setIfInBounds_ne i.isLt (by omega)
  rw [hkeep]
  exact hclear i (by omega)

theorem exec_keeps_rxInv {i : Instr} {s t : State} (h : exec i s = .next t) (hs : RxInv s) : RxInv t := by
  have ⟨hle, hidle, hlead, _, _, hpend, hroom⟩ := hs
  have hdq := exec_keeps_queueBound h hroom
  cases exec_effect h with
  | reset | resetDriven | subscribed | completed => exact rxInv_of_clear rfl rfl (absurd rfl) hdq
  | aborted => exact rxInv_of_clear (abort_ptr _ _) (abort_frame _ _) (absurd (abort_stage _ _)) hdq
  | timedOut => exact rxInv_of_clear (enqueue_ptr _ _) (enqueue_frame _ _) (absurd (enqueue_stage _ _)) hdq
  | opened => exact rxInv_of_clear rfl rfl (fun _ => rfl) hdq
  | leadRisen n lvl hstage =>
    exact rxInv_of_stage hs rfl rfl (fun _ => hpend (by simp [hstage])) (fun _ => hlead (.inl hstage)) nofun hdq
  | leadFallen n lvl hstage =>
    exact rxInv_of_stage hs rfl rfl (fun _ => hpend (by simp [hstage])) (by simp) nofun hdq
  | marked n lvl hsel =>
    obtain ⟨-, hstage, hne⟩ := hsel
    exact rxInv_of_stage hs rfl rfl (fun _ => hpend (by simp [hstage])) (by simp) (fun _ => by omega) hdq
  | stored n lvl b hstage => exact rxInv_storeBit b hs hstage
  | disarmed n hstage =>
    exact rxInv_of_stage hs rfl rfl (absurd hstage) (fun _ => hidle hstage) (by simp [hstage]) hdq
  | warned | unsubscribed | sent | ran | toggled | released | returned | framed =>
    exact rxInv_of_same hs rfl rfl rfl rfl hdq

/-- RESET establishes them from any state. -/
theorem execReset_rxInv {s t : State} (h : execReset s = .next t) : RxInv t := by
  obtain ⟨-, rfl⟩ | ⟨-, rfl⟩ := execReset_next h
  · exact rxInv_of_clear rfl rfl (absurd rfl) (Nat.zero_le _)
  · exact rxInv_of_clear rfl rfl (absurd rfl) (Nat.zero_le _)

/-- Settles O47: RESET leaves an idle receiver, and every operation keeps the seven items. -/
theorem stepKeepsTheReceiverInvariants : Obligations.StepKeepsTheReceiverInvariants :=
  ⟨fun _ _ => execReset_rxInv,
    fun _ _ hs h => step_keeps (P := RxInv) (fun _ _ _ => id) (fun _ _ _ hs h => exec_keeps_rxInv h hs) hs h⟩

/-! ## The overflow mark -/

/-- Settles O23: of the moves of the queue, only RESET's clears the mark. -/
theorem overflowMarkIsSticky : Obligations.OverflowMarkIsSticky := by
  intro i s t h hi hs
  cases exec_queueMove h with
  | kept hsame => exact hsame.2.1.trans hs
  | cleared hreset => exact absurd hreset hi
  | appended _ _ _ _ _ hov => exact hov.trans hs
  | dropped _ _ _ hov => exact hov
  | taken _ _ _ hov => exact hov.trans hs

/-! ## Register widths -/

theorem slotDurations_sum_le (bits : List Bool) : (bits.flatMap slotDurations).sum ≤ 2240 * bits.length := by
  induction bits with
  | nil => simp
  | cons b bits ih =>
    have hslot : (slotDurations b).sum ≤ 2240 := by cases b <;> decide
    rw [List.flatMap_cons, List.sum_append, List.length_cons]
    omega

/-- The bound of 45_transmit_encoder.md R99: every slot a `1`. -/
theorem durations_sum_le {bits : List Bool} (h : bits.length = 32) : (durations bits).sum ≤ 85740 := by
  have hslots := slotDurations_sum_le bits
  simp only [durations, List.sum_append, List.sum_cons, List.sum_nil, Config.tLeadLow, Config.tLeadHigh, Config.tMark]
  omega

theorem offsets_getElem?_le {bits : List Bool} {k o : Nat} (h : bits.length = 32) (ho : (offsets bits)[k]? = some o) :
    o ≤ 85740 := by
  have hk : k < (durations bits).length := by
    obtain ⟨hk, -⟩ := List.getElem?_eq_some_iff.1 ho
    rwa [offsets, prefixSums_length] at hk
  rw [offsets, prefixSums_getElem? 0 hk, Nat.zero_add, Option.some.injEq] at ho
  calc o = ((durations bits).take (k + 1)).sum := ho.symm
    _ ≤ (durations bits).sum := (List.take_sublist _ _).sum_le_sum (fun _ _ => Nat.zero_le _)
    _ ≤ 85740 := durations_sum_le h

theorem txOffsets_le (user data : Nat) (k : Fin 67) : (txOffsets user data)[k] ≤ 85740 := by
  have hlen : (txSchedule user data).offsets.length = 67 := by
    simp [txSchedule, offsets, prefixSums_length, durations_length, txBits_length]
  have hk : (txSchedule user data).offsets[k.val]? = some ((txOffsets user data)[k]) := by
    simp [txOffsets, hlen]
  exact offsets_getElem?_le (txBits_length user data) hk

/-- A counter register is kept or takes a truncated value; the 0 of RESET is one. -/
def CounterWrite (s : State) (old new : Nat) : Prop := new = old ∨ ∃ n, new = truncW s.params.clockBits n

theorem counterWrite_zero (s : State) (old : Nat) : CounterWrite s old 0 := .inr ⟨0, (Nat.zero_mod _).symm⟩

theorem counterWrite_lt {s : State} {old new : Nat} (h : CounterWrite s old new) (hold : old < 2 ^ s.params.clockBits) :
    new < 2 ^ s.params.clockBits := by
  obtain rfl | ⟨n, rfl⟩ := h
  · exact hold
  · exact truncW_lt _ _

theorem exec_lastTs {i : Instr} {s t : State} (h : exec i s = .next t) : CounterWrite s s.lastTs t.lastTs := by
  cases exec_effect h with
  | reset | resetDriven => exact counterWrite_zero s _
  | aborted _ kind n => exact .inr ⟨n, abort_lastTs _ _⟩
  | completed n => exact .inr ⟨n, enqueue_lastTs _ _⟩
  | opened n | leadRisen n | leadFallen n | marked n | stored n => exact .inr ⟨n, rfl⟩
  | timedOut => exact .inl (enqueue_lastTs _ _)
  | subscribed | warned | unsubscribed | sent | disarmed | ran | toggled | released | returned | framed => exact .inl rfl

theorem exec_wdtDeadline {i : Instr} {s t : State} (h : exec i s = .next t) :
    CounterWrite s s.wdtDeadline t.wdtDeadline := by
  cases exec_effect h with
  | reset | resetDriven => exact counterWrite_zero s _
  | opened => exact .inr ⟨_, rfl⟩
  | aborted => exact .inl (abort_wdtDeadline _ _)
  | completed | timedOut => exact .inl (enqueue_wdtDeadline _ _)
  | subscribed | warned | unsubscribed | sent | leadRisen | leadFallen | marked | stored | disarmed | ran | toggled
  | released | returned | framed => exact .inl rfl

theorem exec_txT0 {i : Instr} {s t : State} (h : exec i s = .next t) : CounterWrite s s.txT0 t.txT0 := by
  cases exec_effect h with
  | reset | resetDriven => exact counterWrite_zero s _
  | sent n => exact .inr ⟨n, rfl⟩
  | aborted => exact .inl (abort_txT0 _ _)
  | completed | timedOut => exact .inl (enqueue_txT0 _ _)
  | subscribed | warned | unsubscribed | opened | leadRisen | leadFallen | marked | stored | disarmed | ran | toggled
  | released | returned | framed => exact .inl rfl

/-- The offset table is kept or becomes that of a schedule; RESET's is that of `tx_schedule(0, 0)` (log 2). -/
theorem exec_txOff {i : Instr} {s t : State} (h : exec i s = .next t) :
    t.txOff = s.txOff ∨ ∃ user data, t.txOff = txOffsets user data := by
  cases exec_effect h with
  | reset | resetDriven => exact .inr ⟨0, 0, rfl⟩
  | sent _ user data => exact .inr ⟨user, data, rfl⟩
  | aborted => exact .inl (abort_txOff _ _)
  | completed | timedOut => exact .inl (enqueue_txOff _ _)
  | subscribed | warned | unsubscribed | opened | leadRisen | leadFallen | marked | stored | disarmed | ran | toggled
  | released | returned | framed => exact .inl rfl

theorem exec_keeps_widthInv {i : Instr} {s t : State} (h : exec i s = .next t) (hs : WidthInv s) : WidthInv t := by
  obtain ⟨hts, hdl, ht0, hoff⟩ := hs
  rw [WidthInv, exec_params h]
  refine ⟨counterWrite_lt (exec_lastTs h) hts, counterWrite_lt (exec_wdtDeadline h) hdl,
    counterWrite_lt (exec_txT0 h) ht0, fun k => ?_⟩
  obtain he | ⟨user, data, he⟩ := exec_txOff h <;> rw [he]
  · exact hoff k
  · exact txOffsets_le user data k

/-- Settles O51: every operation keeps the widths and the queue's items, and taking an item writes neither. -/
theorem stepKeepsWidthsAndQueueItems : Obligations.StepKeepsWidthsAndQueueItems :=
  fun _ _ hw hq h => step_keeps (P := fun s => WidthInv s ∧ QueueInv s) (fun _ _ _ => id)
    (fun _ _ _ hs h => ⟨exec_keeps_widthInv h hs.1, exec_keeps_queueInv h hs.2⟩) ⟨hw, hq⟩ h

/-! ## RESET -/

theorem execReset_input {s : State} (h : s.pinMode = .input) : execReset s = .next (resetRegisters s) := by
  simp [execReset, h]

theorem execReset_output {s : State} (h : s.pinMode = .output) :
    execReset s = .next (emit (.txLine .released) (resetRegisters s)) := by
  simp [execReset, h]

/-- Settles O2: RESET writes the registers only; a driven line adds its release to the outputs. -/
theorem resetKeepsWhatIsNotTheBlocks : Obligations.ResetKeepsWhatIsNotTheBlocks := by
  intro s
  cases hp : s.pinMode with
  | input => exact ⟨_, execReset_input hp, rfl, rfl, rfl, rfl, fun _ => rfl, nofun⟩
  | output => exact ⟨_, execReset_output hp, rfl, rfl, rfl, rfl, nofun, fun _ => rfl⟩

/-- Settles O50: an idle block meets its invariants; the offset table is that of `tx_schedule(0, 0)` (log 2). -/
theorem invariantsHoldAtReset : Obligations.InvariantsHoldAtReset := by
  have hrx : RxInv State.reset := rxInv_of_clear rfl rfl (absurd rfl) (Nat.zero_le _)
  have hincreasing : ∀ k : Fin 66, State.reset.txOff[k.val] < State.reset.txOff[k.val + 1] := by decide
  have htx : TxInv State.reset := ⟨fun _ => ⟨rfl, rfl⟩, nofun, hincreasing, by decide, by decide⟩
  have hwidth : WidthInv State.reset := ⟨by decide, by decide, by decide, txOffsets_le 0 0⟩
  exact ⟨hrx, htx, hwidth, ⟨rfl, nofun⟩, nofun, nofun⟩

end Sys2Proof.Proofs
end

section
/-! The memory family (20_memory.md): the transmitter and the receiver share no register (R42). -/

namespace Sys2Proof.Proofs

open Sys2Proof.Machine Sys2Proof.Safety

/-- An operation of the transmitter writes no register of the receiver, the watchdog or the queue. -/
theorem exec_keeps_receiver {i : Instr} {s t : State} (h : exec i s = .next t) (hi : ofTransmitter i = true) :
    SameReceiver s t ∧ SameQueue s t := by
  cases i with
  | send =>
    obtain ⟨-, -, -, -, rfl⟩ := execSend_next h
    exact ⟨⟨rfl, rfl, rfl, rfl, rfl, rfl, rfl, rfl⟩, rfl, rfl, rfl⟩
  | txToggle =>
    obtain ⟨-, -, -, -, -, rfl⟩ := execTxToggle_next h
    exact ⟨⟨rfl, rfl, rfl, rfl, rfl, rfl, rfl, rfl⟩, rfl, rfl, rfl⟩
  | txRelease n =>
    obtain ⟨-, -, rfl⟩ := execTxRelease_next (t := n) h
    exact ⟨⟨rfl, rfl, rfl, rfl, rfl, rfl, rfl, rfl⟩, rfl, rfl, rfl⟩
  | _ => cases hi

theorem sameTransmitter_enqueue (x : WorkItem) (s : State) : SameTransmitter s (enqueue x s) :=
  ⟨enqueue_txBusy x s, enqueue_txT0 x s, enqueue_txStartedAt x s, enqueue_txOff x s, enqueue_txIdx x s,
    enqueue_pinMode x s, enqueue_pinLevel x s⟩

/-- Of the other operations only RESET writes a register of the transmitter: an abort, a terminal action and a timeout
go through the queue's one procedure, the rest write registers of their own. -/
theorem exec_keeps_transmitter {i : Instr} {s t : State} (h : exec i s = .next t) (hreset : i ≠ .reset)
    (hi : ofTransmitter i = false) : SameTransmitter s t := by
  cases exec_effect h with
  | reset | resetDriven => exact absurd rfl hreset
  | sent | toggled | released => cases hi
  | aborted _ kind n => exact sameTransmitter_enqueue (.diag kind) (attemptReset (stamp n s))
  | completed n => exact sameTransmitter_enqueue (.validate s.frame) (stamp n s)
  | timedOut => exact sameTransmitter_enqueue (.diag .timeout) (attemptReset (disarm s))
  | subscribed | warned | unsubscribed | opened | leadRisen | leadFallen | marked | stored | disarmed | ran | returned
  | framed => exact ⟨rfl, rfl, rfl, rfl, rfl, rfl, rfl⟩

/-- Settles O54: no operation but RESET writes on both sides of the block. -/
theorem receiverAndTransmitterShareNothing : Obligations.ReceiverAndTransmitterShareNothing :=
  fun _ _ _ h hreset => ⟨exec_keeps_receiver h, exec_keeps_transmitter h hreset⟩

end Sys2Proof.Proofs
end

section
/-! The encoding family (30_encoding.md): the frame on the line, its length, and the dispatch of an event. -/

namespace Sys2Proof.Proofs

open Sys2Proof.Machine Sys2Proof.Safety

/-! ## The frame on the line -/

theorem intToBits_length (v n : Nat) : (intToBits v n).length = n := by
  rw [intToBits, List.length_reverse, lowBits_length]

theorem fieldsToBits_length (user userC data dataC : Byte) : (fieldsToBits user userC data dataC).length = 32 := by
  simp only [fieldsToBits, List.length_append, intToBits_length]

/-- Settles O32: FRAME puts the waveform of the 67 durations before the script, an edge more than the durations. -/
theorem frameOnTheLineIsSixtyEightEdges : Obligations.FrameOnTheLineIsSixtyEightEdges := by
  intro t0 user userC data dataC s
  have hlen : (durations (fieldsToBits user userC data dataC)).length = 67 := by
    rw [durations_length, fieldsToBits_length]
  refine ⟨rawFrame t0 user userC data dataC, rfl, ?_, fun k hk => ?_⟩
  · rw [rawFrame, wave, waveFrom_length, hlen]
  · exact waveFrom_getElem? t0 .low (by omega)

/-! ## The length of a frame -/

/-- A slot lasts 1120, and 1120 more when it is a `1` (30_encoding.md R49). -/
theorem slotDurations_sum (bits : List Bool) :
    (bits.flatMap slotDurations).sum = 1120 * bits.length + 1120 * bits.count true := by
  induction bits with
  | nil => rfl
  | cons b bits ih =>
    have hslot : (slotDurations b).sum = 1120 + 1120 * [b].count true := by cases b <;> rfl
    rw [List.flatMap_cons, List.sum_append, hslot, ih, List.length_cons, List.count_cons (l := bits),
      List.count_singleton]
    omega

/-- The length of a frame by its number of `1` slots (30_encoding.md R51). -/
theorem durations_sum {bits : List Bool} (h : bits.length = 32) :
    (durations bits).sum = 49900 + 1120 * bits.count true := by
  simp only [durations, List.sum_append, List.sum_cons, List.sum_nil, slotDurations_sum, h, Config.tLeadLow,
    Config.tLeadHigh, Config.tMark]
  omega

/-! ## The slots of a valid frame -/

theorem intToBits_succ (v n : Nat) : intToBits v (n + 1) = intToBits (v / 2) n ++ [decide (v % 2 = 1)] := by
  rw [intToBits, lowBits, List.reverse_cons, Nat.and_one_is_mod, Nat.shiftRight_one, intToBits]

/-- Encoding undoes decoding (42_bit_codec.md R81, law 2). -/
theorem intToBits_bitsToInt (seq : List Bool) : intToBits (bitsToInt seq) seq.length = seq := by
  induction seq using List.reverseRecOn with
  | nil => rfl
  | append_singleton seq b ih =>
    have hb : b.toNat < 2 := b.toNat_lt
    have hdiv : (bitsToInt seq * 2 + b.toNat) / 2 = bitsToInt seq := by omega
    have hmod : decide ((bitsToInt seq * 2 + b.toNat) % 2 = 1) = b := by cases b <;> simp
    rw [bitsToInt_concat, List.length_append, List.length_singleton, intToBits_succ, hdiv, hmod, ih]

/-- A field's slots are the bits of its value. -/
theorem intToBits_field (f : Frame) {k : Nat} (hk : k < 4) : intToBits (field f k).toNat 8 = fieldBits f k := by
  have hlen := fieldBits_length f hk
  have hlt : bitsToInt (fieldBits f k) < 2 ^ 8 := hlen ▸ bitsToInt_lt (fieldBits f k)
  rw [field, BitVec.toNat_ofNat, Nat.mod_eq_of_lt hlt]
  exact hlen ▸ intToBits_bitsToInt (fieldBits f k)

theorem take_fieldBits (f : Frame) (k : Nat) :
    f.toList.take (8 * (k + 1)) = f.toList.take (8 * k) ++ fieldBits f k := List.take_add

theorem toList_eq_fieldBits (f : Frame) :
    f.toList = fieldBits f 0 ++ fieldBits f 1 ++ fieldBits f 2 ++ fieldBits f 3 := by
  calc f.toList = f.toList.take (8 * 4) := (List.take_of_length_le (by simp)).symm
    _ = _ := by simp only [take_fieldBits, Nat.mul_zero, List.take_zero, List.nil_append]

/-- Two bytes that make up `0xFF` differ in every bit. -/
theorem testBit_of_xor {a b : Byte} (h : a ^^^ b = 0xFF) : ∀ j < 8, b.toNat.testBit j = !a.toNat.testBit j := by
  intro j hj
  have hbit : (a ^^^ b).getLsbD j = (BitVec.allOnes 8).getLsbD j := congrArg (BitVec.getLsbD · j) h
  rw [BitVec.getLsbD_xor, BitVec.getLsbD_allOnes, decide_eq_true hj] at hbit
  exact Bool.eq_not_iff.2 (Bool.xor_iff_ne.1 hbit).symm

/-- The slots of a complement pair are each other's negation (43_frame_validator.md R85). -/
theorem fieldBits_of_xor {f : Frame} {k l : Nat} (hk : k < 4) (hl : l < 4) (h : field f k ^^^ field f l = 0xFF) :
    fieldBits f l = (fieldBits f k).map not := by
  rw [← intToBits_field f hk, ← intToBits_field f hl]
  exact intToBits_map_not (testBit_of_xor h)

/-- A slot and its negation are one `1` together. -/
theorem count_true_add_map_not (bits : List Bool) : bits.count true + (bits.map not).count true = bits.length := by
  have hmap : (bits.map not).count true = bits.count false :=
    List.count_map_of_injective bits not Bool.not_injective false
  rw [hmap, List.count_true_add_count_false]

theorem validateFrame_ne_invalid {f : Frame} (h : validateFrame f ≠ .invalid) :
    field f 0 ^^^ field f 1 = 0xFF ∧ field f 2 ^^^ field f 3 = 0xFF := by
  by_contra hn
  exact h (if_neg hn)

/-- Half of a valid frame's slots are `1`: in each complement pair eight of sixteen. -/
theorem count_true_of_valid {f : Frame} (h : validateFrame f ≠ .invalid) : f.toList.count true = 16 := by
  obtain ⟨huser, hdata⟩ := validateFrame_ne_invalid h
  have hu := count_true_add_map_not (fieldBits f 0)
  have hd := count_true_add_map_not (fieldBits f 2)
  rw [← fieldBits_of_xor (by omega) (by omega) huser, fieldBits_length f (by omega)] at hu
  rw [← fieldBits_of_xor (by omega) (by omega) hdata, fieldBits_length f (by omega)] at hd
  rw [toList_eq_fieldBits, List.count_append, List.count_append, List.count_append]
  omega

/-- Settles O40: the length is counted slot by slot, and a valid frame has sixteen `1` slots. -/
theorem frameLengthCountsTheOnes : Obligations.FrameLengthCountsTheOnes := by
  refine ⟨fun bits hlen => ?_, fun f hvalid => ?_⟩
  · have hsum := durations_sum hlen
    have hcount : bits.count true ≤ 32 := hlen ▸ List.count_le_length
    omega
  · have hcount := count_true_of_valid hvalid
    refine ⟨hcount, ?_⟩
    rw [durations_sum f.length_toList, hcount]

/-! ## The operation a key selects -/

/-- The key of an event does not depend on the script or the time. -/
theorem dispatchKey_taken (e : Event) (rest : List Item) (tau : Nat) (s : State) :
    dispatchKey e { s with script := rest, tau := tau } = dispatchKey e s := by
  cases e <;> rfl

theorem selectEvent_of_key {e : Event} {s : State} {o : Op} {i : Instr} (hkey : dispatchKey e s = some o.key)
    (hi : instrOf e o = some i) : selectEvent e s = .run i s := by
  simp [selectEvent, hkey, opOfKey_key, hi]

/-- A step on an event that comes on time runs the row of its key, with the event's operands. -/
theorem step_event_of_key {s : State} {e : Event} {rest : List Item} {o : Op} {i : Instr}
    (hs : s.script = .event e :: rest) (ht : ∀ t, e.time = some t → OnTime t s)
    (hkey : dispatchKey e s = some o.key) (hi : instrOf e o = some i) :
    step s = exec i { s with script := rest, tau := e.time.getD s.tau } :=
  step_event hs ht (selectEvent_of_key ((dispatchKey_taken e rest _ s).trans hkey) hi)

/-- The key of a handled edge, `0100 sssp`: its stage and its pointer flag (30_encoding.md R56). -/
theorem dispatchKey_edge {st : Stage} {full : Bool} {s : State} (t : Nat) (lvl : Level)
    (h : edgeSelects st full s = true) :
    dispatchKey (.edge t lvl) s = some (BitVec.ofNat 8 (0x40 + 2 * st.code + full.toNat)) := by
  simp only [edgeSelects, Bool.and_eq_true, beq_iff_eq] at h
  obtain ⟨⟨hsub, hstage⟩, hptr⟩ := h
  rw [dispatchKey, if_pos hsub, edgeKey, hstage, hptr]

theorem dispatchKey_selected {st : Stage} {s : State} (t : Nat) (lvl : Level) (h : Selected st s) :
    dispatchKey (.edge t lvl) s = some (BitVec.ofNat 8 (0x40 + 2 * st.code)) :=
  dispatchKey_edge t lvl ((edgeSelects_iff st s).2 h)

theorem dispatchKey_selectedTerm {s : State} (t : Nat) (lvl : Level) (h : SelectedTerm s) :
    dispatchKey (.edge t lvl) s = some Op.edgeBitriseTerm.key :=
  dispatchKey_edge t lvl ((edgeSelects_term_iff s).2 h)

theorem dispatchKey_run_validate {s : State} {f : Frame} {rest : List WorkItem} (h : s.dq = .validate f :: rest) :
    dispatchKey .run s = some Op.dqRunValidate.key := by
  simp only [dispatchKey, h, Op.key]

theorem dispatchKey_run_diag {s : State} {kind : DiagKind} {rest : List WorkItem} (h : s.dq = .diag kind :: rest) :
    dispatchKey .run s = some Op.dqRunDiag.key := by
  simp only [dispatchKey, h, Op.key]

/-- Settles O41: `dispatchKey` gives each event class the key of its row, an edge by stage and pointer flag. -/
theorem eventRunsTheOperationItsKeySelects : Obligations.EventRunsTheOperationItsKeySelects := by
  intro s e rest hscript htime s1
  have run (o : Op) {i : Instr} (hkey : dispatchKey e s = some o.key) (hi : instrOf e o = some i) :
      step s = exec i s1 := step_event_of_key hscript htime hkey hi
  refine ⟨?_, ?_, ?_, ?_, ?_, ?_, ?_, ?_, ?_⟩
  · rintro rfl
    exact run .reset rfl rfl
  · rintro rfl
    exact run .startReceive rfl rfl
  · rintro rfl
    exact run .stopReceive rfl rfl
  · rintro t user data rfl
    exact run .send rfl rfl
  · rintro t lvl rfl
    exact ⟨fun h => run .edgeLeadfall (dispatchKey_selected t lvl h) rfl,
      fun h => run .edgeLeadrise (dispatchKey_selected t lvl h) rfl,
      fun h => run .edgeBitfallFirst (dispatchKey_selected t lvl h) rfl,
      fun h => run .edgeBitfallNext (dispatchKey_selected t lvl h) rfl,
      fun h => run .edgeBitriseMark (dispatchKey_selected t lvl h) rfl,
      fun h => run .edgeBitriseTerm (dispatchKey_selectedTerm t lvl h) rfl⟩
  · rintro t rfl
    exact run .wdtExpire rfl rfl
  · rintro rfl
    exact ⟨fun f q hq => run .dqRunValidate (dispatchKey_run_validate hq) rfl,
      fun k q hq => run .dqRunDiag (dispatchKey_run_diag hq) rfl⟩
  · rintro t rfl
    exact run .txToggle rfl rfl
  · rintro t rfl
    exact run .txRelease rfl rfl

end Sys2Proof.Proofs
end

section
/-! The receive family (41_receive_state_machine.md), edge by edge: the accept test, the wrap-safe delta, and what each
edge operation does where the dispatch key selects it. -/

namespace Sys2Proof.Proofs

open Sys2Proof.Machine Sys2Proof.Safety

/-! ## The accept test and the delta -/

/-- Settles O33: the test is the closed window of `within_iff`. -/
theorem acceptTestIsTheClosedWindow : Obligations.AcceptTestIsTheClosedWindow := by
  intro d n
  rw [within_iff, abs_le]
  omega

/-- Less than a counter period apart, the counter difference to a truncated time is the real time. -/
theorem counterDiff_of_elapsed {w t0 t : Nat} (hle : t0 ≤ t) (hlt : t < t0 + 2 ^ w) :
    counterDiff w t (t0 % 2 ^ w) = t - t0 := by
  have hmod : ((t : Int) - (t0 % 2 ^ w : Nat)) % 2 ^ w = ((t - t0 : Nat) : Int) % (2 ^ w : Nat) := by
    push_cast [hle]
    rw [Int.sub_emod_emod]
  rw [counterDiff, hmod, ← Int.natCast_emod, Int.toNat_natCast, Nat.mod_eq_of_lt (by omega)]

/-- Settles O58: the delta is the counter difference to `last_ts`. -/
theorem wrapSafeDeltaIsTheRealTime : Obligations.WrapSafeDeltaIsTheRealTime := by
  intro t0 t s hlast hle hlt
  rw [edgeDelta_eq, hlast]
  exact counterDiff_of_elapsed hle hlt

/-! ## The opening edge -/

theorem exec_edgeLeadfall_low {t : Nat} {s : State} (hs : Selected .awaitLeadFall s) :
    exec (.edgeLeadfall t .low) s = .next (openAttempt t (stamp t s)) :=
  if_pos ((edgeSelects_iff _ s).2 hs)

theorem exec_edgeLeadfall_high {t : Nat} {s : State} (hs : Selected .awaitLeadFall s) :
    exec (.edgeLeadfall t .high) s = .next (aborted .levelViolation t s) :=
  abort_stamp .levelViolation t s ▸ if_pos ((edgeSelects_iff _ s).2 hs)

/-- Settles O6: the level decides between the start of an attempt and an abort. -/
theorem leadFallOpensAnAttemptOrAborts : Obligations.LeadFallOpensAnAttemptOrAborts :=
  fun _ _ hs => ⟨exec_edgeLeadfall_low hs, exec_edgeLeadfall_high hs⟩

/-! ## The edges that check one duration -/

/-- What an edge that checks one duration does where it is selected: inside `lo .. hi` the receiver goes on to stage
`dst`, outside it the attempt is aborted. -/
def ChecksWindow (lo hi : Nat) (dst : Stage) (i : Instr) (t : Nat) (s : State) : Prop :=
  let delta := counterDiff s.params.clockBits t s.lastTs
  (lo ≤ delta ∧ delta ≤ hi → exec i s = .next { s with lastTs := t % 2 ^ s.params.clockBits, stage := dst }) ∧
    (delta < lo ∨ hi < delta → exec i s = .next (aborted .timingViolation t s))

/-- The meaning shared by the three operations checks the window of half-width `TOL` around its nominal. -/
theorem checksWindow_of_exec {src dst : Stage} {lo : Nat} {i : Instr} {t : Nat} {s : State} (hs : Selected src s)
    (hi : exec i s =
      if edgeSelects src false s then .next (checkDuration (lo + 500) dst t s) else .fault .notSelected) :
    ChecksWindow lo (lo + 1000) dst i t s := by
  rw [if_pos ((edgeSelects_iff src s).2 hs)] at hi
  refine ⟨fun hin => ?_, fun hout => ?_⟩ <;> rw [hi, checkDuration, edgeDelta_eq]
  · rw [if_pos ((within_iff _ _).2 (by omega))]
    rfl
  · rw [if_neg (mt (within_iff _ _).1 (by omega)), abort_stamp]

theorem edgeLeadrise_checks {t : Nat} {lvl : Level} {s : State} (hs : Selected .awaitLeadRise s) :
    ChecksWindow 8500 9500 (.awaitBitFall .firstBit) (.edgeLeadrise t lvl) t s :=
  checksWindow_of_exec hs rfl

theorem edgeBitfallFirst_checks {t : Nat} {lvl : Level} {s : State} (hs : Selected (.awaitBitFall .firstBit) s) :
    ChecksWindow 4000 5000 .awaitBitRise (.edgeBitfallFirst t lvl) t s :=
  checksWindow_of_exec hs rfl

theorem edgeBitriseMark_checks {t : Nat} {lvl : Level} {s : State} (hs : Selected .awaitBitRise s) :
    ChecksWindow 60 1060 (.awaitBitFall .subsequentBit) (.edgeBitriseMark t lvl) t s :=
  checksWindow_of_exec hs rfl

/-- Settles O7: the lead's low part, nominally 9000. -/
theorem leadRiseChecksTheLeadLow : Obligations.LeadRiseChecksTheLeadLow :=
  fun _ _ _ hs => edgeLeadrise_checks hs

/-- Settles O8: the lead's high part, nominally 4500. -/
theorem bitFallFirstChecksTheLeadHigh : Obligations.BitFallFirstChecksTheLeadHigh :=
  fun _ _ _ hs => edgeBitfallFirst_checks hs

/-- Settles O9: the mark, nominally 560. -/
theorem bitRiseMarkChecksTheMark : Obligations.BitRiseMarkChecksTheMark :=
  fun _ _ _ hs => edgeBitriseMark_checks hs

/-! ## The edge that classifies a space -/

/-- The windows of R71 for a `0` and a `1`. -/
def InSpaceWindow (b : Bool) (d : Nat) : Prop :=
  (b = false ∧ 60 ≤ d ∧ d ≤ 1060) ∨ (b = true ∧ 1180 ≤ d ∧ d ≤ 2180)

theorem classify_of_inSpaceWindow {b : Bool} {d : Nat} (h : InSpaceWindow b d) : classify d = some b := by
  obtain ⟨rfl, _, _⟩ | ⟨rfl, _, _⟩ := h
  · obtain ⟨_, _, hc⟩ | ⟨_, _, hc⟩ | ⟨hout, _, _⟩ := classify_cases d
    · exact hc
    · omega
    · omega
  · obtain ⟨_, _, hc⟩ | ⟨_, _, hc⟩ | ⟨_, hout, _⟩ := classify_cases d
    · omega
    · exact hc
    · omega

theorem classify_outside {d : Nat} (h : d < 60 ∨ (1060 < d ∧ d < 1180) ∨ 2180 < d) : classify d = none := by
  obtain ⟨_, _, _⟩ | ⟨_, _, _⟩ | ⟨_, _, hc⟩ := classify_cases d
  · omega
  · omega
  · exact hc

theorem exec_edgeBitfallNext_bit {t : Nat} {lvl : Level} {s : State} {b : Bool}
    (hs : Selected (.awaitBitFall .subsequentBit) s)
    (h : InSpaceWindow b (counterDiff s.params.clockBits t s.lastTs)) :
    exec (.edgeBitfallNext t lvl) s = .next (storeBit b (stamp t s)) := by
  show execEdgeBitfallNext t lvl s = _
  rw [execEdgeBitfallNext, if_pos ((edgeSelects_iff _ s).2 hs), edgeDelta_eq, classify_of_inSpaceWindow h]

theorem exec_edgeBitfallNext_abort {t : Nat} {lvl : Level} {s : State}
    (hs : Selected (.awaitBitFall .subsequentBit) s)
    (h : classify (counterDiff s.params.clockBits t s.lastTs) = none) :
    exec (.edgeBitfallNext t lvl) s = .next (aborted .timingViolation t s) := by
  show execEdgeBitfallNext t lvl s = _
  rw [execEdgeBitfallNext, if_pos ((edgeSelects_iff _ s).2 hs), edgeDelta_eq, h, abort_stamp]

/-- Storing a bit writes the slot at the pointer and no other. -/
theorem storeBit_frame_getElem (b : Bool) (s : State) (i : Fin 32) :
    (storeBit b s).frame[i] = if i.val = s.ptr then b else s.frame[i] := by
  rw [storeBit_frame, Fin.getElem_fin, Vector.getElem_setIfInBounds, Fin.getElem_fin]
  simp only [eq_comm]

/-- Settles O10: the space is classified, and `storeBit` writes the slot at the pointer. -/
theorem bitFallNextClassifiesTheSpace : Obligations.BitFallNextClassifiesTheSpace := by
  intro t lvl s hs _
  exact ⟨fun b hb => ⟨_, exec_edgeBitfallNext_bit hs hb, storeBit_frame_getElem b (stamp t s)⟩,
    fun hout => exec_edgeBitfallNext_abort hs (classify_outside hout)⟩

/-! ## The terminal edge -/

theorem exec_edgeBitriseTerm_selected {t : Nat} {lvl : Level} {s : State} (hs : SelectedTerm s) :
    exec (.edgeBitriseTerm t lvl) s = .next (attemptReset (enqueue (.validate s.frame) (stamp t s))) :=
  if_pos ((edgeSelects_term_iff s).2 hs)

/-- Settles O11: with room and without, whatever the delta. -/
theorem terminalEdgeQueuesTheFrame : Obligations.TerminalEdgeQueuesTheFrame := by
  intro t lvl s hs
  rw [exec_edgeBitriseTerm_selected hs]
  obtain ⟨hroom, he⟩ | ⟨hfull, he⟩ := enqueue_cases (.validate s.frame) (stamp t s) <;> rw [he]
  · have hroom : HasRoom s := hroom
    simp only [if_pos hroom]
    rfl
  · have hfull : ¬HasRoom s := hfull
    simp only [if_neg hfull]
    rfl

/-- Settles O12: the meanings of the five operations do not name their level. -/
theorem onlyTheOpeningEdgeReadsTheLevel : Obligations.OnlyTheOpeningEdgeReadsTheLevel :=
  fun _ _ => ⟨rfl, rfl, rfl, rfl, rfl⟩

/-! ## Unsubscribed, and after an abort -/

theorem selectEvent_edge_unsubscribed {t : Nat} {lvl : Level} {s : State} (h : s.rxEnable = false) :
    selectEvent (.edge t lvl) s = .ignored s := by
  have hkey : dispatchKey (.edge t lvl) s = none := by simp [dispatchKey, h]
  simp [selectEvent, hkey]

/-- Settles O14: the edge is taken on time and selects no operation. -/
theorem unsubscribedEdgeChangesNoRegister : Obligations.UnsubscribedEdgeChangesNoRegister := by
  intro t lvl rest s hscript hon hoff
  have hignored : selectEvent (.edge t lvl) { s with script := rest, tau := t } = .ignored _ :=
    selectEvent_edge_unsubscribed hoff
  simp only [step, fetch, hscript, Event.time, takeItem_onTime rest hon, hignored]

/-- A step on a low edge that comes on time opens an attempt where the receiver is idle and subscribed. -/
theorem step_opens {s : State} {t : Nat} {rest : List Item} (hs : s.script = .event (.edge t .low) :: rest)
    (hon : OnTime t s) (hsel : Selected .awaitLeadFall s) :
    step s = .next (openAttempt t (stamp t { s with script := rest, tau := t })) := by
  have hstep := step_event_of_key (o := .edgeLeadfall) hs (by rintro _ ⟨⟩; exact hon)
    (dispatchKey_selected t .low hsel) rfl
  exact hstep.trans (exec_edgeLeadfall_low hsel)

/-- Settles O57: the receiver's invariants put the pointer of an idle receiver at 0, where a low edge is selected. -/
theorem recoveryAfterEveryAbort : Obligations.RecoveryAfterEveryAbort := by
  intro i s t n rest hs _ hexec hidle hsub hon
  obtain ⟨-, hptr, -⟩ := exec_keeps_rxInv hexec hs
  have h0 : t.ptr = 0 := hptr hidle
  have hsel : Selected .awaitLeadFall { t with script := .event (.edge n .low) :: rest } := ⟨hsub, hidle, by simp [h0]⟩
  exact ⟨h0, _, step_opens rfl hon hsel, rfl, rfl, clearFrame_getElem, rfl, rfl, rfl⟩

end Sys2Proof.Proofs
end

section
/-! The receive family (41_receive_state_machine.md R76): a frame sent within tolerance comes out as its callback. The
run is followed edge by edge: the opening edge, the lead, each slot, the terminal edge, and the RUN of the queued
frame. -/

namespace Sys2Proof.Proofs

open Sys2Proof.Machine Sys2Proof.Safety

/-! ## The fields of the frame of four bytes -/

/-- Decoding undoes encoding (42_bit_codec.md R81, law 1). -/
theorem bitsToInt_intToBits (v n : Nat) : bitsToInt (intToBits v n) = v % 2 ^ n := by
  induction n generalizing v with
  | zero => rw [Nat.pow_zero, Nat.mod_one]; rfl
  | succ n ih =>
    have hbit : (decide (v % 2 = 1)).toNat = v % 2 := by
      obtain h | h := Nat.mod_two_eq_zero_or_one v <;> simp [h]
    rw [intToBits_succ, bitsToInt_concat, ih, hbit, Nat.pow_succ', Nat.mod_mul, Nat.mul_comm, Nat.add_comm]

theorem ofNat_bitsToInt_intToBits (b : Byte) : BitVec.ofNat 8 (bitsToInt (intToBits b.toNat 8)) = b := by
  rw [bitsToInt_intToBits, Nat.mod_eq_of_lt b.isLt, BitVec.ofNat_toNat, BitVec.setWidth_eq]

theorem frameOfBits_getElem (bits : List Bool) {i : Nat} (_h : i < 32) : (frameOfBits bits)[i] = bits.getD i false := by
  simp [frameOfBits]

theorem frameOfBits_toList {bits : List Bool} (h : bits.length = 32) : (frameOfBits bits).toList = bits := by
  refine List.ext_getElem (by rw [Vector.length_toList, h]) fun i _ hi => ?_
  rw [Vector.getElem_toList, frameOfBits_getElem, List.getD_eq_getElem _ _ hi]

theorem frameOfBits_nil : frameOfBits [] = clearFrame := by
  ext
  simp [frameOfBits_getElem, clearFrame]

/-- A frame filled up to the pointer takes its next slot. -/
theorem frameOfBits_append (bits : List Bool) (b : Bool) :
    (frameOfBits bits).setIfInBounds bits.length b = frameOfBits (bits ++ [b]) := by
  ext i hi
  rw [Vector.getElem_setIfInBounds, frameOfBits_getElem, frameOfBits_getElem]
  obtain hlt | rfl | hgt := Nat.lt_trichotomy i bits.length
  · rw [if_neg (by omega), List.getD_append _ _ _ _ hlt]
  · rw [if_pos rfl, List.getD_append_right _ _ _ _ (le_refl _), Nat.sub_self]; rfl
  · rw [if_neg (by omega), List.getD_eq_default _ _ (by omega), List.getD_eq_default _ _ (by simp; omega)]

/-- The four fields of the frame of four bytes are the bytes. -/
theorem field_frameOfFields (a b c d : Byte) :
    field (frameOfFields a b c d) 0 = a ∧ field (frameOfFields a b c d) 1 = b ∧
      field (frameOfFields a b c d) 2 = c ∧ field (frameOfFields a b c d) 3 = d := by
  have hlist := (frameOfBits_toList (fieldsToBits_length a b c d)).symm.trans (toList_eq_fieldBits _)
  have hlen (k : Nat) (hk : k < 4) (x : Byte) :
      (intToBits x.toNat 8).length = (fieldBits (frameOfFields a b c d) k).length := by
    rw [intToBits_length, fieldBits_length _ hk]
  obtain ⟨h012, h3⟩ := List.append_inj' hlist (hlen 3 (by omega) d)
  obtain ⟨h01, h2⟩ := List.append_inj' h012 (hlen 2 (by omega) c)
  obtain ⟨h0, h1⟩ := List.append_inj' h01 (hlen 1 (by omega) b)
  have hfield {k : Nat} {x : Byte} (h : intToBits x.toNat 8 = fieldBits (frameOfFields a b c d) k) :
      field (frameOfFields a b c d) k = x := by
    rw [field, ← h, ofNat_bitsToInt_intToBits]
  exact ⟨hfield h0, hfield h1, hfield h2, hfield h3⟩

theorem validateFrame_frameOfFields (user data : Byte) :
    validateFrame (frameOfFields user (user ^^^ 0xFF) data (data ^^^ 0xFF)) = .valid user data := by
  obtain ⟨h0, h1, h2, h3⟩ := field_frameOfFields user (user ^^^ 0xFF) data (data ^^^ 0xFF)
  rw [validateFrame, h0, h1, h2, h3, if_pos]
  simp

/-- The slots of a transmission are those of the pair and its complements. -/
theorem txBits_eq_fieldsToBits (user data : Byte) :
    txBits user.toNat data.toNat = fieldsToBits user (user ^^^ 0xFF) data (data ^^^ 0xFF) := by
  simp [txBits, fieldsToBits, Config.fieldMask]

/-! ## The receiver inside an attempt -/

/-- What is still to come after an edge at time `t` with level `lvl`, with the durations `ds` left: the later edges
of the waveform, then the RUN. -/
def afterEdge (t : Nat) (lvl : Level) (ds : List Nat) : List Item :=
  (waveFrom t lvl ds).tail.map .event ++ [.event .run]

theorem afterEdge_cons (t : Nat) (lvl : Level) (d : Nat) (ds : List Nat) :
    afterEdge t lvl (d :: ds) = .event (.edge (t + d) lvl.flip) :: afterEdge (t + d) lvl.flip ds := by
  cases ds <;> rfl

theorem wave_script (t : Nat) (ds : List Nat) :
    (wave t ds).map .event ++ [.event .run] = .event (.edge t .low) :: afterEdge t .low ds := by
  cases ds <;> rfl

/-- The state after the edge at time `t` of an attempt opened in `o`: the slots `bits` are stored, the stage is `st`,
and the durations `ds` are left. -/
def attemptAt (o : State) (st : Stage) (bits : List Bool) (t : Nat) (lvl : Level) (ds : List Nat) : State :=
  { o with
    stage := st
    ptr := bits.length
    frame := frameOfBits bits
    lastTs := truncW o.params.clockBits t
    tau := t
    script := afterEdge t lvl ds }

/-- The state after the opening edge of a waveform at time `t`. -/
def opened (t : Nat) (ds : List Nat) (s : State) : State :=
  openAttempt t (stamp t { s with script := afterEdge t .low ds, tau := t })

theorem opened_eq_attemptAt (t : Nat) (ds : List Nat) (s : State) :
    opened t ds s = attemptAt (opened t ds s) .awaitLeadRise [] t .low ds := by
  simp [opened, openAttempt, attemptAt, frameOfBits_nil, armWatchdog, stamp, emit]

/-- The state after the terminal edge at time `t` of the attempt opened in `o`, with only the RUN to come. -/
def completed (o : State) (bits : List Bool) (t : Nat) : State :=
  attemptReset (enqueue (.validate (frameOfBits bits)) (attemptAt o .awaitBitRise bits t .high []))

/-- The state an edge of duration `d` is handled in: that after the edge before it, with the edge taken and the time
moved on. -/
def edgeTaken (o : State) (st : Stage) (bits : List Bool) (t : Nat) (lvl : Level) (d : Nat) (ds : List Nat) : State :=
  { attemptAt o st bits t lvl (d :: ds) with tau := t + d, script := afterEdge (t + d) lvl.flip ds }

/-- Every edge of the attempt opened in `o` up to the global time `last` is handled, comes on time, and is less than
a counter period after the opening. -/
structure Receptive (o : State) (last : Nat) : Prop where
  subscribed : o.rxEnable = true
  onTime : OnTime last o
  period : last < o.tau + 2 ^ o.params.clockBits

section
variable {o : State} {last t d : Nat} {lvl : Level} {ds : List Nat} {bits : List Bool}

/-- The next edge of an attempt runs the operation of its key, after the time moved on by the edge's duration. -/
theorem step_attemptAt {st : Stage} {op : Op} {i : Instr} (ho : Receptive o last) (hd : t + d ≤ last)
    (hkey : dispatchKey (.edge (t + d) lvl.flip) (attemptAt o st bits t lvl (d :: ds)) = some op.key)
    (hi : instrOf (.edge (t + d) lvl.flip) op = some i) :
    step (attemptAt o st bits t lvl (d :: ds)) = exec i (edgeTaken o st bits t lvl d ds) := by
  obtain ⟨_, hexpiry, htoggle⟩ := ho.onTime
  have hon : OnTime (t + d) (attemptAt o st bits t lvl (d :: ds)) :=
    ⟨Nat.le_add_right t d, fun h => hd.trans (hexpiry h), fun k hb hk => hd.trans (htoggle k hb hk)⟩
  exact step_event_of_key (afterEdge_cons t lvl d ds) (by rintro _ ⟨⟩; exact hon) hkey hi

theorem counterDiff_attempt (ho : Receptive o last) (ht : o.tau ≤ t) (hd : t + d ≤ last) :
    counterDiff o.params.clockBits (t + d) (truncW o.params.clockBits t) = d := by
  have hperiod := ho.period
  rw [truncW, counterDiff_of_elapsed (Nat.le_add_right t d) (by omega), Nat.add_sub_cancel_left]

/-- An edge that checks its duration, within tolerance, moves the attempt to the next stage. -/
theorem step_attemptAt_checked {st dst : Stage} {op : Op} {i : Instr} (lo : Nat) (ho : Receptive o last)
    (ht : o.tau ≤ t) (hd : t + d ≤ last) (hbits : bits.length < 32)
    (hop : op.key = BitVec.ofNat 8 (0x40 + 2 * st.code)) (hi : instrOf (.edge (t + d) lvl.flip) op = some i)
    (hchecks : ∀ s, Selected st s → ChecksWindow lo (lo + 1000) dst i (t + d) s) (hw : within d (lo + 500) = true) :
    step (attemptAt o st bits t lvl (d :: ds)) = .next (attemptAt o dst bits (t + d) lvl.flip ds) := by
  have hsel : Selected st (attemptAt o st bits t lvl (d :: ds)) := ⟨ho.subscribed, rfl, Nat.ne_of_lt hbits⟩
  have hdelta := counterDiff_attempt ho ht hd
  obtain ⟨hhi, hlo⟩ := (within_iff d (lo + 500)).1 hw
  rw [step_attemptAt ho hd (hop ▸ dispatchKey_selected _ _ hsel) hi]
  exact (hchecks (edgeTaken o st bits t lvl d ds) hsel).1 (hdelta.symm ▸ ⟨by omega, by omega⟩)

theorem step_leadRise (ho : Receptive o last) (ht : o.tau ≤ t) (hd : t + d ≤ last)
    (hw : within d Config.tLeadLow = true) :
    step (attemptAt o .awaitLeadRise [] t lvl (d :: ds)) =
      .next (attemptAt o (.awaitBitFall .firstBit) [] (t + d) lvl.flip ds) :=
  step_attemptAt_checked (op := .edgeLeadrise) 8500 ho ht hd (by decide) rfl rfl (fun _ => edgeLeadrise_checks) hw

theorem step_leadFall (ho : Receptive o last) (ht : o.tau ≤ t) (hd : t + d ≤ last)
    (hw : within d Config.tLeadHigh = true) :
    step (attemptAt o (.awaitBitFall .firstBit) [] t lvl (d :: ds)) =
      .next (attemptAt o .awaitBitRise [] (t + d) lvl.flip ds) :=
  step_attemptAt_checked (op := .edgeBitfallFirst) 4000 ho ht hd (by decide) rfl rfl
    (fun _ => edgeBitfallFirst_checks) hw

theorem step_mark (ho : Receptive o last) (ht : o.tau ≤ t) (hd : t + d ≤ last) (hbits : bits.length < 32)
    (hw : within d Config.tMark = true) :
    step (attemptAt o .awaitBitRise bits t lvl (d :: ds)) =
      .next (attemptAt o (.awaitBitFall .subsequentBit) bits (t + d) lvl.flip ds) :=
  step_attemptAt_checked (op := .edgeBitriseMark) 60 ho ht hd hbits rfl rfl (fun _ => edgeBitriseMark_checks) hw

theorem inSpaceWindow_of_within {b : Bool} (hw : within d (if b then Config.tSpace1 else Config.tSpace0) = true) :
    InSpaceWindow b d := by
  cases b
  · obtain ⟨hhi, hlo⟩ := (within_iff d 560).1 hw
    exact .inl ⟨rfl, by omega, by omega⟩
  · obtain ⟨hhi, hlo⟩ := (within_iff d 1680).1 hw
    exact .inr ⟨rfl, by omega, by omega⟩

/-- The end of a space within tolerance of the symbol of `b` stores `b`. -/
theorem step_space {b : Bool} (ho : Receptive o last) (ht : o.tau ≤ t) (hd : t + d ≤ last) (hbits : bits.length < 32)
    (hw : within d (if b then Config.tSpace1 else Config.tSpace0) = true) :
    step (attemptAt o (.awaitBitFall .subsequentBit) bits t lvl (d :: ds)) =
      .next (attemptAt o .awaitBitRise (bits ++ [b]) (t + d) lvl.flip ds) := by
  have hsel : Selected (.awaitBitFall .subsequentBit)
      (attemptAt o (.awaitBitFall .subsequentBit) bits t lvl (d :: ds)) :=
    ⟨ho.subscribed, rfl, Nat.ne_of_lt hbits⟩
  have hwindow := (counterDiff_attempt ho ht hd).symm ▸ inSpaceWindow_of_within hw
  rw [step_attemptAt (op := .edgeBitfallNext) ho hd (dispatchKey_selected _ _ hsel) rfl,
    exec_edgeBitfallNext_bit (s := edgeTaken ..) hsel hwindow]
  simp [storeBit, stamp, edgeTaken, attemptAt, frameOfBits_append]

/-- The terminal edge queues the frame. -/
theorem step_term (ho : Receptive o last) (hd : t + d ≤ last) (hbits : bits.length = 32) :
    step (attemptAt o .awaitBitRise bits t lvl [d]) = .next (completed o bits (t + d)) := by
  have hsel : SelectedTerm (attemptAt o .awaitBitRise bits t lvl [d]) := ⟨ho.subscribed, rfl, hbits⟩
  rw [step_attemptAt (op := .edgeBitriseTerm) ho hd (dispatchKey_selectedTerm _ _ hsel) rfl]
  exact exec_edgeBitriseTerm_selected (s := edgeTaken ..) hsel

/-! ## Runs -/

theorem run_succ {M : Host.Core} {s s' : M.State} (k : Nat) (h : M.step s = .next s') :
    M.run (k + 1) s = M.run k s' := by
  rw [Host.Core.run, h]

/-- The slots `rest` and the trail of a frame within tolerance run to the queueing of the whole frame. -/
theorem run_slots_trail (ho : Receptive o last) {rest : List Bool} (ht : o.tau ≤ t) (hd : t + ds.sum ≤ last)
    (hbits : bits.length + rest.length = 32)
    (hds : List.Forall₂ (fun d n => within d n = true) ds (rest.flatMap slotDurations ++ [Config.tMark])) (k : Nat) :
    Host.Core.run core (k + 2 * rest.length + 1) (attemptAt o .awaitBitRise bits t lvl ds) =
      Host.Core.run core k (completed o (bits ++ rest) (t + ds.sum)) := by
  induction rest generalizing bits t lvl ds with
  | nil =>
    obtain ⟨d, _, -, hnil, rfl⟩ := List.forall₂_cons_right_iff.1 hds
    obtain rfl := List.forall₂_nil_right_iff.1 hnil
    rw [List.sum_singleton] at hd
    rw [List.append_nil, List.sum_singleton]
    exact run_succ (M := core) k (step_term ho hd hbits)
  | cons b rest ih =>
    obtain ⟨mark, _, hmark, htail, rfl⟩ := List.forall₂_cons_right_iff.1 hds
    obtain ⟨space, ds, hspace, hrest, rfl⟩ := List.forall₂_cons_right_iff.1 htail
    rw [List.sum_cons, List.sum_cons] at hd
    rw [List.length_cons] at hbits
    have hbits' : (bits ++ [b]).length + rest.length = 32 := by simp; omega
    calc Host.Core.run core (k + 2 * (rest.length + 1) + 1) _
      _ = Host.Core.run core (k + 2 * rest.length + 2)
            (attemptAt o (.awaitBitFall .subsequentBit) bits (t + mark) lvl.flip (space :: ds)) :=
          run_succ (M := core) _ (step_mark ho ht (by omega) (by omega) hmark)
      _ = Host.Core.run core (k + 2 * rest.length + 1)
            (attemptAt o .awaitBitRise (bits ++ [b]) (t + mark + space) lvl.flip.flip ds) :=
          run_succ (M := core) _ (step_space ho (by omega) (by omega) (by omega) hspace)
      _ = _ := ih (t := t + mark + space) (by omega) (by omega) hbits' hrest
      _ = _ := by
        rw [List.append_assoc, List.singleton_append, List.sum_cons, List.sum_cons, Nat.add_assoc t, Nat.add_assoc t,
          Nat.add_assoc mark]

end

/-! ## A whole frame -/

/-- The arm step of the opening edge leaves time for the whole frame. -/
theorem receptive_opened {t0 : Nat} {ds : List Nat} {s : State} (hsub : s.rxEnable = true)
    (htoggle : ∀ k : Fin 67, s.txBusy = true → s.txIdx = k.val →
      t0 + ds.sum ≤ s.txStartedAt + s.txOff[k] + s.params.txLatencyMax)
    (hsum : ds.sum < 100000) (hperiod : 100000 < 2 ^ s.params.clockBits) :
    Receptive (opened t0 ds s) (t0 + ds.sum) := by
  refine ⟨hsub, ⟨Nat.le_add_right _ _, fun _ => ?_, htoggle⟩, ?_⟩
  · show t0 + ds.sum ≤ t0 + 100000 + s.params.wdtLatencyMax
    omega
  · show t0 + ds.sum < t0 + 2 ^ s.params.clockBits
    omega

/-- A whole frame within tolerance: 68 edges queue its slots. -/
theorem run_frame {bits : List Bool} {t0 : Nat} {ds : List Nat} {s : State} (hbits : bits.length = 32)
    (hopen : step s = .next (opened t0 ds s)) (ho : Receptive (opened t0 ds s) (t0 + ds.sum))
    (hds : List.Forall₂ (fun d n => within d n = true) ds (durations bits)) (k : Nat) :
    Host.Core.run core (k + 68) s = Host.Core.run core k (completed (opened t0 ds s) bits (t0 + ds.sum)) := by
  have ht0 : (opened t0 ds s).tau = t0 := rfl
  have hattempt := opened_eq_attemptAt t0 ds s
  generalize opened t0 ds s = o at *
  obtain ⟨low, _, hlow, htail, rfl⟩ := List.forall₂_cons_right_iff.1 hds
  obtain ⟨high, ds, hhigh, hslots, rfl⟩ := List.forall₂_cons_right_iff.1 htail
  rw [List.sum_cons, List.sum_cons] at ho ⊢
  calc Host.Core.run core (k + 68) s
    _ = Host.Core.run core (k + 67) o := run_succ (M := core) _ hopen
    _ = Host.Core.run core (k + 67) (attemptAt o .awaitLeadRise [] t0 .low (low :: high :: ds)) := by rw [← hattempt]
    _ = Host.Core.run core (k + 66) (attemptAt o (.awaitBitFall .firstBit) [] (t0 + low) .high (high :: ds)) :=
        run_succ (M := core) _ (step_leadRise ho (by omega) (by omega) hlow)
    _ = Host.Core.run core (k + 65) (attemptAt o .awaitBitRise [] (t0 + low + high) .low ds) :=
        run_succ (M := core) _ (step_leadFall ho (by omega) (by omega) hhigh)
    _ = Host.Core.run core (k + 2 * bits.length + 1) (attemptAt o .awaitBitRise [] (t0 + low + high) .low ds) := by
        rw [hbits]
    _ = _ := run_slots_trail ho (by omega) (by omega) (by simpa using hbits) hslots k
    _ = _ := by rw [List.nil_append, Nat.add_assoc, Nat.add_assoc]

theorem exec_dqRunValidate_valid {s : State} {f : Frame} {rest : List WorkItem} {user data : Byte}
    (hq : s.dq = .validate f :: rest) (hf : validateFrame f = .valid user data) :
    exec .dqRunValidate s = .next (emit (.callback user data) (withQueue rest s)) := by
  simp [exec, execDqRunValidate, hq, hf]

/-- A RUN of a queued valid frame calls back with its pair (47_deferred_executor.md R115). -/
theorem step_run_validate {s : State} {items : List Item} {f : Frame} {rest : List WorkItem} {user data : Byte}
    (hs : s.script = .event .run :: items) (hq : s.dq = .validate f :: rest)
    (hf : validateFrame f = .valid user data) :
    step s = .next (emit (.callback user data) (withQueue rest { s with script := items })) :=
  (step_event_of_key (o := .dqRunValidate) hs nofun (dispatchKey_run_validate hq) rfl).trans
    (exec_dqRunValidate_valid hq hf)

/-- With the queue empty before, the frame is the one item queued. -/
theorem completed_of_empty {o : State} {bits : List Bool} {t : Nat} (hempty : o.dq = [])
    (hdepth : 1 ≤ o.params.queueDepth) :
    completed o bits t = attemptReset
      (withQueue [.validate (frameOfBits bits)] (attemptAt o .awaitBitRise bits t .high [])) := by
  have hroom : hasRoom (attemptAt o .awaitBitRise bits t .high []) = true :=
    (hasRoom_iff _).2 (by rw [attemptAt, hempty]; exact hdepth)
  rw [completed, enqueue, hroom, cond_true, withQueue]
  simp only [attemptAt, hempty, List.nil_append]

/-- The RUN after the terminal edge calls back with the pair of a valid frame. -/
theorem step_completed {o : State} {bits : List Bool} {t : Nat} {user data : Byte} (hempty : o.dq = [])
    (hdepth : 1 ≤ o.params.queueDepth) (hf : validateFrame (frameOfBits bits) = .valid user data) :
    step (completed o bits t) = .next (emit (.callback user data)
      (attemptReset (withQueue [] { attemptAt o .awaitBitRise bits t .high [] with script := [] }))) := by
  rw [completed_of_empty hempty hdepth]
  exact step_run_validate rfl rfl hf

theorem durations_txBits_length (user data : Nat) : (durations (txBits user data)).length = 67 := by
  rw [durations_length, txBits_length]

/-- Durations within tolerance of their nominals index by index are so element by element. -/
theorem forall₂_within {n : Nat} {ds nominals : List Nat} (hds : ds.length = n) (hnom : nominals.length = n)
    (h : ∀ k < n, within (ds.getD k 0) (nominals.getD k 0) = true) :
    List.Forall₂ (fun d nominal => within d nominal = true) ds nominals := by
  refine List.forall₂_iff_get.2 ⟨hds.trans hnom.symm, fun k hk hk' => ?_⟩
  have hwithin := h k (hds ▸ hk)
  rwa [List.getD_eq_getElem _ _ hk, List.getD_eq_getElem _ _ hk'] at hwithin

/-- Settles O59: 68 edges queue the frame of the pair, and the RUN calls back with its fields. -/
theorem everyFrameRoundTrips : Obligations.EveryFrameRoundTrips := by
  intro user data ds t0 s hparams hsub hidle hptr hempty hon hlen htoggle hwithin hsum hscript
  obtain ⟨-, hdepth, hclock, -⟩ := hparams
  have hds := forall₂_within hlen (durations_txBits_length user.toNat data.toNat) hwithin
  have hperiod : 100000 < 2 ^ s.params.clockBits := by
    have : 100000 + s.params.wdtLatencyMax < 2 ^ s.params.clockBits := hclock
    omega
  have hopen : step s = .next (opened t0 ds s) :=
    step_opens (hscript.trans (wave_script t0 ds)) hon ⟨hsub, hidle, by simp [hptr]⟩
  have hframe := run_frame (txBits_length _ _) hopen (receptive_opened hsub htoggle hsum hperiod) hds 1
  rw [txBits_eq_fieldsToBits] at hframe
  have hrun := step_completed (o := opened t0 ds s) (t := t0 + ds.sum) hempty hdepth
    (validateFrame_frameOfFields user data)
  refine ⟨_, hframe.trans (run_succ (M := core) 0 hrun), ?_, rfl, rfl, rfl, rfl, rfl, rfl⟩
  simp [State.observed, attemptAt, opened, Output.observable]

end Sys2Proof.Proofs
end

section
/-! The codec family (42_bit_codec.md): the closed form of an encoding and the five laws. -/

namespace Sys2Proof.Proofs

open Sys2Proof.Machine

/-! ## The closed form of an encoding -/

theorem decide_shiftRight_and_one (v i : Nat) : decide (v >>> i &&& 1 = 1) = v.testBit i := by
  rw [Nat.and_one_is_mod, Nat.testBit_eq_decide_div_mod_eq, Nat.shiftRight_eq_div_pow]

/-- Settles O35: the length, and element `j` read off as bit `n - 1 - j`. -/
theorem intToBitsClosedForm : Obligations.IntToBitsClosedForm := by
  intro v n
  refine ⟨intToBits_length v n, fun j hj => ?_⟩
  rw [decide_shiftRight_and_one]
  exact intToBits_getElem? v hj

/-! ## The five laws -/

/-- Decoding continues over a concatenation (42_bit_codec.md R81, law 3). -/
theorem bitsToInt_append (s1 s2 : List Bool) :
    bitsToInt (s1 ++ s2) = bitsToInt s1 * 2 ^ s2.length + bitsToInt s2 := by
  induction s2 using List.reverseRecOn with
  | nil => simp [bitsToInt]
  | append_singleton s2 b ih =>
    rw [← List.append_assoc, bitsToInt_concat, bitsToInt_concat, ih, List.length_append, List.length_singleton,
      Nat.pow_succ]
    ring

/-- The mask of `n` ones complements each of the low `n` bits. -/
theorem testBit_xor_mask (v : Nat) {n j : Nat} (hj : j < n) : (v ^^^ (2 ^ n - 1)).testBit j = !v.testBit j := by
  rw [Nat.testBit_xor, Nat.testBit_two_pow_sub_one, decide_eq_true hj, Bool.xor_true]

/-- The complement encodes as the negation (42_bit_codec.md R81, law 5); bits of `v` above the mask are lost. -/
theorem intToBits_xor_mask (v n : Nat) : intToBits (v ^^^ (2 ^ n - 1)) n = (intToBits v n).map not :=
  intToBits_map_not fun _ => testBit_xor_mask v

/-- Settles O34: laws 1 to 5 in R81's order; both forms of law 5 are `intToBits_xor_mask`, `0xFF` being `2 ^ 8 - 1`. -/
theorem codecLaws : Obligations.CodecLaws :=
  ⟨bitsToInt_intToBits, intToBits_bitsToInt, bitsToInt_append, intToBits_length,
    fun v n _ => intToBits_xor_mask v n, fun v => intToBits_xor_mask v 8⟩

end Sys2Proof.Proofs
end

section
/-! The validator family (43_frame_validator.md): the forms of the complement test, the valid frames slot by slot, the
one frame of each pair, and the five pure functions as operations. -/

namespace Sys2Proof.Proofs

open Sys2Proof.Machine

/-- Settles O31: each operation is `emit` of the function's value, and `emit` is `withOutput`. -/
theorem pureFunctionsWriteNoRegister : Obligations.PureFunctionsWriteNoRegister := by
  intro s
  simp only [withOutput_eq_emit]
  exact ⟨fun _ => rfl, fun _ _ => rfl, fun _ => rfl, fun _ _ => rfl, fun _ _ => rfl⟩

/-! ## The forms of the complement test (43_frame_validator.md R85) -/

theorem xor_mask (a : Byte) : a ^^^ 0xFF = ~~~a := BitVec.xor_allOnes

/-- The form the others are read off from: the second byte is the complement of the first. -/
theorem xor_eq_mask_iff_not (a b : Byte) : a ^^^ b = 0xFF ↔ b = ~~~a := by
  have hmask : a ^^^ ~~~a = 0xFF := by
    rw [← xor_mask, ← BitVec.xor_assoc, BitVec.xor_self, BitVec.zero_xor]
  rw [← hmask, BitVec.xor_right_inj]

theorem xor_eq_mask_iff_sub (a b : Byte) : a ^^^ b = 0xFF ↔ b.toNat = 255 - a.toNat := by
  rw [xor_eq_mask_iff_not, ← BitVec.toNat_inj, BitVec.toNat_not]

theorem xor_eq_mask_iff_add (a b : Byte) : a ^^^ b = 0xFF ↔ a.toNat + b.toNat = 255 := by
  rw [xor_eq_mask_iff_sub]
  omega

theorem xor_eq_mask_iff_bits (a b : Byte) : a ^^^ b = 0xFF ↔ ∀ j < 8, b.getLsbD j = !a.getLsbD j := by
  rw [xor_eq_mask_iff_not, BitVec.eq_of_getLsbD_eq_iff]
  refine forall₂_congr fun j hj => ?_
  rw [BitVec.getLsbD_not, decide_eq_true hj, Bool.true_and]

/-! ## The valid frames slot by slot -/

/-- Slot `j` of a field is bit `7 - j` of its value. -/
theorem field_getLsbD (f : Frame) {k j : Nat} (hk : k < 4) (hj : j < 8) :
    (field f k).getLsbD (7 - j) = f[8 * k + j] := by
  have hbit : (fieldBits f k)[j]? = some ((field f k).getLsbD (7 - j)) := by
    rw [← intToBits_field f hk]
    exact intToBits_getElem? _ hj
  have hslot : (fieldBits f k)[j]? = some f[8 * k + j] := by
    rw [fieldBits, List.getElem?_take_of_lt hj, List.getElem?_drop, List.getElem?_eq_getElem (by simp; omega),
      Vector.getElem_toList]
  exact Option.some.inj (hbit.symm.trans hslot)

/-- Two fields are complements exactly when each slot of the second negates the same slot of the first. -/
theorem field_xor_iff_slots (f : Frame) {k l : Nat} (hk : k < 4) (hl : l < 4) :
    field f k ^^^ field f l = 0xFF ↔ ∀ i : Fin 8, f[8 * l + i.val] = !f[8 * k + i.val] := by
  rw [xor_eq_mask_iff_bits]
  refine ⟨fun h i => ?_, fun h j hj => ?_⟩
  · rw [← field_getLsbD f hl i.isLt, ← field_getLsbD f hk i.isLt]
    exact h _ (by omega)
  · obtain ⟨i, hi, rfl⟩ : ∃ i < 8, j = 7 - i := ⟨7 - j, by omega, by omega⟩
    rw [field_getLsbD f hl hi, field_getLsbD f hk hi]
    exact h ⟨i, hi⟩

theorem validateFrame_eq_of_xor {f : Frame} (huser : field f 0 ^^^ field f 1 = 0xFF)
    (hdata : field f 2 ^^^ field f 3 = 0xFF) : validateFrame f = .valid (field f 0) (field f 2) :=
  if_pos ⟨huser, hdata⟩

theorem validateFrame_ne_invalid_iff_xor (f : Frame) :
    validateFrame f ≠ .invalid ↔ field f 0 ^^^ field f 1 = 0xFF ∧ field f 2 ^^^ field f 3 = 0xFF := by
  refine ⟨validateFrame_ne_invalid, fun ⟨huser, hdata⟩ => ?_⟩
  rw [validateFrame_eq_of_xor huser hdata]
  nofun

theorem validateFrame_ne_invalid_iff_slots (f : Frame) :
    validateFrame f ≠ .invalid ↔ ∀ i : Fin 8, f[i.val + 8] = (!f[i.val]) ∧ f[i.val + 24] = (!f[i.val + 16]) := by
  rw [validateFrame_ne_invalid_iff_xor, field_xor_iff_slots f (by omega) (by omega),
    field_xor_iff_slots f (by omega) (by omega), ← forall_and]
  simp [Nat.add_comm]

/-! ## The one valid frame of a pair -/

theorem frameOfBits_slots (f : Frame) : frameOfBits f.toList = f :=
  Vector.toList_inj.1 (frameOfBits_toList f.length_toList)

/-- A frame is the frame of its four fields (20_memory.md R39). -/
theorem frameOfFields_fields (f : Frame) : frameOfFields (field f 0) (field f 1) (field f 2) (field f 3) = f := by
  rw [frameOfFields, fieldsToBits, intToBits_field f (by omega), intToBits_field f (by omega),
    intToBits_field f (by omega), intToBits_field f (by omega), ← toList_eq_fieldBits, frameOfBits_slots]

/-- A frame that validates to a pair is the frame of the pair and its complements. -/
theorem eq_frameOfFields_of_valid {f : Frame} {user data : Byte} (h : validateFrame f = .valid user data) :
    f = frameOfFields user (user ^^^ 0xFF) data (data ^^^ 0xFF) := by
  obtain ⟨huser, hdata⟩ := validateFrame_ne_invalid (f := f) (by rw [h]; nofun)
  obtain ⟨rfl, rfl⟩ := Verdict.valid.inj ((validateFrame_eq_of_xor huser hdata).symm.trans h)
  rw [xor_mask, xor_mask, ← (xor_eq_mask_iff_not _ _).1 huser, ← (xor_eq_mask_iff_not _ _).1 hdata,
    frameOfFields_fields]

/-- Settles O36: every form of the test says that the second byte is the complement; a field's bits are its slots; and a
frame is determined by its four fields. -/
theorem validFramesAreTheComplementPairs : Obligations.ValidFramesAreTheComplementPairs :=
  ⟨fun a b => ⟨xor_eq_mask_iff_sub a b, xor_eq_mask_iff_add a b, xor_eq_mask_iff_bits a b⟩,
    validateFrame_ne_invalid_iff_slots,
    fun user data => ⟨_, validateFrame_frameOfFields user data, fun _ h => eq_frameOfFields_of_valid h⟩⟩

end Sys2Proof.Proofs
end

section
/-! The watchdog family (44_receive_watchdog.md): what the expiry does, what can happen to a pending one, and the two
windows in global time. -/

namespace Sys2Proof.Proofs

open Sys2Proof.Machine Sys2Proof.Safety

/-! ## What an operation does to the pending expiry -/

/-- What an operation does to the pending expiry: nothing; RESET and the expiry itself end it; an accepted opening edge
arms it at its own time (44_receive_watchdog.md R88, R92). -/
inductive WatchdogMove (i : Instr) (s t : State) : Prop
  | kept : t.wdtPending = s.wdtPending → t.wdtDeadline = s.wdtDeadline → t.wdtArmedAt = s.wdtArmedAt →
      WatchdogMove i s t
  | ended : (i = .reset ∨ ∃ n, i = .wdtExpire n) → t.wdtPending = false → WatchdogMove i s t
  | armed (n : Nat) : i = .edgeLeadfall n .low → t.wdtPending = true →
      t.wdtDeadline = (n + 100000) % 2 ^ s.params.clockBits → t.wdtArmedAt = n → WatchdogMove i s t

theorem exec_watchdogMove {i : Instr} {s t : State} (h : exec i s = .next t) : WatchdogMove i s t := by
  cases exec_effect h with
  | reset | resetDriven => exact .ended (.inl rfl) rfl
  | timedOut n => exact .ended (.inr ⟨n, rfl⟩) (enqueue_wdtPending _ _)
  | disarmed n => exact .ended (.inr ⟨n, rfl⟩) rfl
  | opened n => exact .armed n rfl rfl (Nat.mod_add_mod _ _ _) rfl
  | aborted => exact .kept (abort_wdtPending _ _) (abort_wdtDeadline _ _) (abort_wdtArmedAt _ _)
  | completed => exact .kept (enqueue_wdtPending _ _) (enqueue_wdtDeadline _ _) (enqueue_wdtArmedAt _ _)
  | subscribed | warned | unsubscribed | sent | leadRisen | leadFallen | marked | stored | ran | toggled | released
  | returned | framed => exact .kept rfl rfl rfl

/-- No operation moves the global time; a step does, when it takes its item. -/
theorem exec_tau {i : Instr} {s t : State} (h : exec i s = .next t) : t.tau = s.tau := by
  cases exec_effect h <;> simp

/-! ## The deadlines -/

/-- The half of `ClockInv` about the pending expiry. -/
def WatchdogClock (s : State) : Prop :=
  s.wdtPending = true → s.wdtArmedAt ≤ s.tau ∧ s.tau ≤ s.wdtArmedAt + 100000 + s.params.wdtLatencyMax ∧
    s.wdtDeadline = (s.wdtArmedAt + 100000) % 2 ^ s.params.clockBits

/-- The half of `ClockInv` about the next toggle. -/
def ToggleClock (s : State) : Prop :=
  s.txBusy = true → s.txStartedAt ≤ s.tau ∧ s.txT0 = s.txStartedAt % 2 ^ s.params.clockBits ∧
    ∀ k : Fin 67, s.txIdx = k.val → s.tau ≤ s.txStartedAt + s.txOff[k] + s.params.txLatencyMax

theorem clockInv_iff (s : State) : ClockInv s ↔ WatchdogClock s ∧ ToggleClock s := Iff.rfl

/-- Taking an item on time passes neither bound. -/
theorem clockInv_taken {s : State} {time : Option Nat} (rest : List Item) (hon : ∀ t, time = some t → OnTime t s)
    (hs : ClockInv s) : ClockInv { s with script := rest, tau := time.getD s.tau } := by
  cases time with
  | none => exact hs
  | some t =>
    obtain ⟨hle, hexpiry, htoggle⟩ := hon t rfl
    obtain ⟨hwdt, htx⟩ := hs
    refine ⟨fun hp => ?_, fun hb => ?_⟩
    · obtain ⟨harm, -, hdl⟩ := hwdt hp
      exact ⟨harm.trans hle, hexpiry hp, hdl⟩
    · obtain ⟨hstart, ht0, -⟩ := htx hb
      exact ⟨hstart.trans hle, ht0, fun k => htoggle k hb⟩

/-- An arm step at the global time starts a fresh bound. -/
theorem exec_keeps_watchdogClock {i : Instr} {s t : State} (h : exec i s = .next t)
    (hnow : ∀ n, i.time = some n → s.tau = n) (hs : WatchdogClock s) : WatchdogClock t := by
  intro hp
  rw [exec_tau h, exec_params h]
  cases exec_watchdogMove h with
  | kept hpend hdl harm =>
    rw [hdl, harm]
    exact hs (hpend ▸ hp)
  | ended _ hpend => simp [hpend] at hp
  | armed n hi _ hdl harm =>
    have htau : s.tau = n := hnow n (by rw [hi]; rfl)
    rw [harm, htau]
    exact ⟨le_rfl, by omega, hdl⟩

theorem toggleClock_of_idle {s : State} (h : s.txBusy = false) : ToggleClock s := by
  intro hb
  simp [h] at hb

/-- They speak of the transmitter's registers, the parameters and the time alone. -/
theorem toggleClock_of_same {s t : State} (hs : ToggleClock s) (hsame : SameTransmitter s t) (hp : t.params = s.params)
    (htau : t.tau = s.tau) : ToggleClock t := by
  obtain ⟨hbusy, ht0, hstart, hoff, hidx, -, -⟩ := hsame
  rwa [ToggleClock, hbusy, ht0, hstart, hoff, hidx, hp, htau]

/-- A SEND at the global time starts below the first offset. -/
theorem toggleClock_startTransmission {n : Nat} {s : State} (user data : Nat) (hnow : s.tau = n) :
    ToggleClock (startTransmission n user data s) := by
  intro _
  refine ⟨hnow.ge, rfl, fun k _ => ?_⟩
  simp only [startTransmission_tau, startTransmission_txStartedAt]
  omega

/-- The offsets increase, so the bound of the next toggle is later than that of the one done. -/
theorem toggleClock_toggled {s : State} (htx : TxInv s) (hs : ToggleClock s) :
    ToggleClock (togglePin (nextBoundary s)) := by
  intro hb
  obtain ⟨hstart, ht0, hbound⟩ := hs hb
  obtain ⟨-, -, hincreasing, -⟩ := htx
  refine ⟨hstart, ht0, fun k hk => ?_⟩
  have hk : s.txIdx + 1 = k.val := hk
  have hdone := hbound ⟨s.txIdx, by omega⟩ rfl
  have hoff : s.txOff[s.txIdx] < s.txOff[s.txIdx + 1] := hincreasing ⟨s.txIdx, by omega⟩
  calc s.tau ≤ s.txStartedAt + s.txOff[s.txIdx] + s.params.txLatencyMax := hdone
    _ ≤ s.txStartedAt + s.txOff[s.txIdx + 1] + s.params.txLatencyMax := by omega
    _ = s.txStartedAt + s.txOff[k] + s.params.txLatencyMax := by simp only [hk, Fin.getElem_fin]

theorem exec_keeps_toggleClock {i : Instr} {s t : State} (h : exec i s = .next t)
    (hnow : ∀ n, i.time = some n → s.tau = n) (htx : TxInv s) (hs : ToggleClock s) : ToggleClock t := by
  cases i with
  | reset =>
    obtain ⟨-, rfl⟩ | ⟨-, rfl⟩ := execReset_next h
    · exact toggleClock_of_idle rfl
    · exact toggleClock_of_idle rfl
  | send n user data =>
    obtain ⟨-, -, -, -, rfl⟩ := execSend_next h
    exact toggleClock_startTransmission user data (hnow n rfl)
  | txToggle =>
    obtain ⟨-, -, -, -, -, rfl⟩ := execTxToggle_next h
    exact toggleClock_toggled htx hs
  | txRelease n =>
    obtain ⟨-, -, rfl⟩ := execTxRelease_next (t := n) h
    exact toggleClock_of_idle rfl
  | _ => exact toggleClock_of_same hs (exec_keeps_transmitter h nofun rfl) (exec_params h) (exec_tau h)

/-- Every step keeps the deadlines: the item is taken on time, and its operation, at the time it was taken, keeps both
halves. -/
theorem step_keeps_clockInv {s s' : State} (htx : TxInv s) (hs : ClockInv s) (h : step s = .next s') : ClockInv s' := by
  obtain rfl | ⟨rest, time, hon, rfl | ⟨i, hi, hexec⟩⟩ := step_next_cases h
  · exact hs
  · exact clockInv_taken rest hon hs
  · obtain ⟨hwdt, htoggle⟩ := (clockInv_iff _).1 (clockInv_taken rest hon hs)
    have hnow : ∀ n, i.time = some n → time.getD s.tau = n := by
      intro n hn
      rw [← hi, hn, Option.getD_some]
    exact (clockInv_iff s').2
      ⟨exec_keeps_watchdogClock hexec hnow hwdt, exec_keeps_toggleClock hexec hnow htx htoggle⟩

/-- Settles O49: the receiver's invariants keep an expiry pending while an attempt is in progress. -/
theorem stepKeepsTheDeadlines : Obligations.StepKeepsTheDeadlines := by
  intro s s' hrx htx hclock h
  obtain ⟨-, -, -, -, -, hpend, -⟩ := stepKeepsTheReceiverInvariants.2 s s' hrx h
  have hclock' := step_keeps_clockInv htx hclock h
  refine ⟨hclock', fun hstage => ?_⟩
  obtain ⟨-, hbound, -⟩ := hclock'.1 (hpend hstage)
  exact hbound

/-! ## The windows in global time -/

/-- A step on a timed event with a key of the table answers a next state exactly when the event comes on time and its
operation runs from there. -/
theorem step_event_completes {s : State} {e : Event} {rest : List Item} {o : Op} {i : Instr} {t : Nat}
    (hs : s.script = .event e :: rest) (ht : e.time = some t) (hkey : dispatchKey e s = some o.key)
    (hi : instrOf e o = some i) :
    (∃ s', step s = .next s') ↔ OnTime t s ∧ ∃ s', exec i { s with script := rest, tau := t } = .next s' := by
  have hrun (hon : OnTime t s) : step s = exec i { s with script := rest, tau := t } := by
    have h := step_event_of_key hs (fun n hn => Option.some.inj (ht.symm.trans hn) ▸ hon) hkey hi
    rwa [ht] at h
  constructor
  · rintro ⟨s', h⟩
    have hon : OnTime t s := by
      cases htake : takeItem e.time rest s with
      | ok s1 => exact (takeItem_eq htake).2 t ht
      | error f => simp only [step, fetch, hs, htake, reduceCtorEq] at h
    exact ⟨hon, s', hrun hon ▸ h⟩
  · rintro ⟨hon, s', h⟩
    exact ⟨s', (hrun hon).trans h⟩

/-- Going round the counter once does not change a difference. -/
theorem counterDiff_add_period (w a b : Nat) : counterDiff w (a + 2 ^ w) b = counterDiff w a b := by
  rw [← counterDiff_truncW, truncW, Nat.add_mod_right, ← truncW, counterDiff_truncW]

/-- From `before` ahead of a deadline to `after` past it, less than a counter period in all, the counter is at most
`after` past the deadline exactly when the deadline is reached. -/
theorem counterDiff_le_iff {w deadline t before after : Nat} (hperiod : before + after < 2 ^ w)
    (hlo : deadline ≤ t + before) (hhi : t ≤ deadline + after) :
    counterDiff w t (deadline % 2 ^ w) ≤ after ↔ deadline ≤ t := by
  obtain hreached | hearly := le_or_gt deadline t
  · rw [counterDiff_of_elapsed hreached (by omega)]
    omega
  · rw [← counterDiff_add_period, counterDiff_of_elapsed (by omega) (by omega)]
    omega

/-- The expiry's window on the counter is the window in global time. -/
theorem expiryInWindow_iff_global {t : Nat} {s : State} (hok : s.params.Ok) (harm : s.wdtArmedAt ≤ t)
    (hdl : s.wdtDeadline = (s.wdtArmedAt + 100000) % 2 ^ s.params.clockBits) :
    expiryInWindow t s = true ↔
      s.wdtArmedAt + 100000 ≤ t ∧ t ≤ s.wdtArmedAt + 100000 + s.params.wdtLatencyMax := by
  obtain ⟨-, -, hperiod, -⟩ := hok
  rw [expiryInWindow_iff, hdl]
  constructor
  · rintro ⟨hdiff, -, hhi⟩
    exact ⟨(counterDiff_le_iff hperiod (Nat.add_le_add_right harm _) hhi).1 hdiff, hhi⟩
  · rintro ⟨hlo, hhi⟩
    exact ⟨(counterDiff_le_iff hperiod (Nat.add_le_add_right harm _) hhi).2 hlo, harm, hhi⟩

/-- Within the bound of boundary `k` the counter has not come round since the SEND, so the boundary is reached on the
counter exactly when it is in global time. -/
theorem toggleReached_iff_global {t : Nat} {k : Fin 67} {s : State} (hok : s.params.Ok) (hoff : s.txOff[k] ≤ 85740)
    (hbusy : s.txBusy = true) (hidx : s.txIdx = k.val) (hstart : s.txStartedAt ≤ t)
    (ht0 : s.txT0 = s.txStartedAt % 2 ^ s.params.clockBits)
    (hhi : t ≤ s.txStartedAt + s.txOff[k] + s.params.txLatencyMax) :
    toggleReached t s = true ↔ s.txStartedAt + s.txOff[k] ≤ t := by
  obtain ⟨-, -, -, hperiod⟩ := hok
  have hperiod : 85740 + s.params.txLatencyMax < 2 ^ s.params.clockBits := hperiod
  have helapsed : txElapsed t s = t - s.txStartedAt := by
    rw [txElapsed_eq, ht0]
    exact counterDiff_of_elapsed hstart (by omega)
  rw [toggleReached_iff, nextOffset_eq hidx, helapsed]
  constructor
  · rintro ⟨-, -, hreached, -⟩
    omega
  · intro hlo
    exact ⟨hbusy, by omega, by omega, hstart⟩

/-- Settles O17: an item is taken up to both engines' bounds, and up to them the counter's test is the global one. -/
theorem expiryAndToggleRunExactlyInTheirWindows : Obligations.ExpiryAndToggleRunExactlyInTheirWindows := by
  rintro t rest s hok ⟨hwdt, htx⟩ ⟨-, -, -, hoff⟩ hle
  refine ⟨fun hscript hpend htoggle => ?_, fun k hscript hbusy hidx hexpiry => ?_⟩
  · obtain ⟨harm, -, hdl⟩ := hwdt hpend
    have hglobal := expiryInWindow_iff_global (s := { s with script := rest, tau := t }) hok (harm.trans hle) hdl
    rw [step_event_completes (o := .wdtExpire) hscript rfl rfl rfl, exec, execWdtExpire_completes]
    constructor
    · rintro ⟨-, -, hwindow⟩
      exact hglobal.1 hwindow
    · rintro ⟨hlo, hhi⟩
      exact ⟨⟨hle, fun _ => hhi, htoggle⟩, hpend, hglobal.2 ⟨hlo, hhi⟩⟩
  · obtain ⟨hstart, ht0, -⟩ := htx hbusy
    rw [step_event_completes (o := .txToggle) hscript rfl rfl rfl, exec, execTxToggle_completes]
    have hbound := toggleInTime_iff (t := t) (s := { s with script := rest, tau := t }) hidx
    have hglobal := toggleReached_iff_global (s := { s with script := rest, tau := t }) hok (hoff k) hbusy hidx
      (hstart.trans hle) ht0
    constructor
    · rintro ⟨-, hreached, hin⟩
      exact ⟨(hglobal (hbound.1 hin)).1 hreached, hbound.1 hin⟩
    · rintro ⟨hlo, hhi⟩
      have hnext : ∀ l : Fin 67, s.txBusy = true → s.txIdx = l.val →
          t ≤ s.txStartedAt + s.txOff[l] + s.params.txLatencyMax := by
        rintro l - hl
        rwa [← Fin.ext (hidx.symm.trans hl)]
      exact ⟨⟨hle, hexpiry, hnext⟩, (hglobal hhi).2 hlo, hbound.2 hhi⟩

/-! ## What the expiry does, and what leaves it pending -/

/-- Settles O18: of the moves, only those of RESET and the expiry end it, and only the opening edge's arms it anew. -/
theorem nothingCancelsAPendingExpiry : Obligations.NothingCancelsAPendingExpiry := by
  intro i s t h hpend hreset hexpire
  cases exec_watchdogMove h with
  | kept hp hdl harm => exact ⟨hp.trans hpend, fun hne => hne.elim (fun h => absurd hdl h) (fun h => absurd harm h)⟩
  | ended hi =>
    obtain hi | ⟨n, hi⟩ := hi
    · exact absurd hi hreset
    · exact absurd hi (hexpire n)
  | armed n hi hp => exact ⟨hp, fun _ => ⟨n, hi⟩⟩

/-- Enqueueing as one state, its two outcomes told apart in the three fields they write. -/
theorem enqueue_eq (x : WorkItem) (s : State) : enqueue x s =
    { s with
      dq := if HasRoom s then s.dq ++ [x] else s.dq
      dqOverflow := if HasRoom s then s.dqOverflow else true
      faulted := if HasRoom s then s.faulted else true } := by
  obtain ⟨hroom, he⟩ | ⟨hfull, he⟩ := enqueue_cases x s
  · simp only [he, if_pos hroom]
  · simp only [he, if_neg hfull]

theorem exec_wdtExpire_inAttempt {t : Nat} {s : State} (hpend : s.wdtPending = true) (hw : expiryInWindow t s = true)
    (hstage : s.stage ≠ .awaitLeadFall) :
    exec (.wdtExpire t) s = .next (enqueue (.diag .timeout) (attemptReset (disarm s))) := by
  simp [exec, execWdtExpire, hpend, hw, (inAttempt_iff s).2 hstage]

theorem exec_wdtExpire_idle {t : Nat} {s : State} (hpend : s.wdtPending = true) (hw : expiryInWindow t s = true)
    (hstage : s.stage = .awaitLeadFall) : exec (.wdtExpire t) s = .next (disarm s) := by
  simp [exec, execWdtExpire, hpend, hw, inAttempt, hstage]

/-- Settles O15: the premises are the window; in it the stage decides between a timeout and the disarming alone. -/
theorem watchdogExpiryEndsTheAttempt : Obligations.WatchdogExpiryEndsTheAttempt := by
  intro t s hpend hdiff harm hhi
  have hw : expiryInWindow t s = true := (expiryInWindow_iff t s).2 ⟨hdiff, harm, hhi⟩
  refine ⟨fun hstage => ?_, exec_wdtExpire_idle hpend hw⟩
  rw [exec_wdtExpire_inAttempt hpend hw hstage, enqueue_eq]
  rfl

/-- Settles O16: the two guards of the expiry, the second being the window's negation. -/
theorem watchdogExpiryIsStuckOutsideItsWindow : Obligations.WatchdogExpiryIsStuckOutsideItsWindow := by
  intro t s
  refine ⟨fun hpend => if_pos hpend, fun hpend hout => ?_⟩
  have hw : expiryInWindow t s = false := by
    rw [← Bool.not_eq_true, expiryInWindow_iff]
    omega
  simp [exec, execWdtExpire, hpend, hw]

end Sys2Proof.Proofs
end

section
/-! The transmit family (45_transmit_encoder.md): the durations and offsets of a schedule, and what each operation of
the transmitter does. -/

namespace Sys2Proof.Proofs

open Sys2Proof.Machine Sys2Proof.Safety

/-! ## The durations -/

/-- The durations between the lead and the trail are those of the slots. -/
theorem durations_getElem?_slot {bits : List Bool} {j : Nat} (h : j < 2 * bits.length) :
    (durations bits)[2 + j]? = (bits.flatMap slotDurations)[j]? := by
  rw [durations, List.append_assoc, List.getElem?_append_right (Nat.le_add_right 2 j),
    List.getElem?_append_left (by rw [slots_length]; simpa using h)]
  simp

theorem durations_getElem?_trail (bits : List Bool) :
    (durations bits)[2 + 2 * bits.length]? = some Config.tMark := by
  have hlen : ([Config.tLeadLow, Config.tLeadHigh] ++ bits.flatMap slotDurations).length = 2 + 2 * bits.length := by
    rw [List.length_append, slots_length]; rfl
  rw [durations, ← hlen, List.getElem?_concat_length]

/-- Settles O37: the lead, the mark and the space of each slot, the trail. -/
theorem durationsFollowTheSlots : Obligations.DurationsFollowTheSlots := by
  intro user data b D
  have hlen := txBits_length user data
  have htrail := durations_getElem?_trail (txBits user data)
  rw [hlen] at htrail
  refine ⟨hlen, durations_txBits_length user data, rfl, rfl, htrail, fun i hi => ?_⟩
  obtain ⟨hmark, hspace⟩ := slots_getElem? (hlen.symm ▸ hi)
  constructor
  · exact (durations_getElem?_slot (by omega)).trans hmark
  · rw [show 3 + 2 * i = 2 + (2 * i + 1) by omega]
    exact (durations_getElem?_slot (by omega)).trans hspace

/-! ## The offsets -/

theorem txSchedule_offsets_length (user data : Nat) : (txSchedule user data).offsets.length = 67 :=
  (prefixSums_length 0 _).trans (durations_txBits_length user data)

/-- Offset `k` is the sum of the first `k + 1` durations. -/
theorem txSchedule_offsets_getElem? (user data : Nat) {k : Nat} (hk : k < 67) :
    (txSchedule user data).offsets[k]? = some ((txSchedule user data).durations.take (k + 1)).sum := by
  have hlen : k < (durations (txBits user data)).length := by rwa [durations_txBits_length]
  exact (prefixSums_getElem? 0 hlen).trans (by rw [Nat.zero_add]; rfl)

/-- Summing positive durations, every offset is later than the one before it, and the first later than the start. -/
theorem isChain_prefixSums (start : Nat) {ds : List Nat} (h : ∀ d ∈ ds, 0 < d) :
    (start :: prefixSums start ds).IsChain (· < ·) := by
  induction ds generalizing start with
  | nil => exact .singleton start
  | cons d ds ih =>
    obtain ⟨hd, hds⟩ := List.forall_mem_cons.1 h
    exact .cons_cons (Nat.lt_add_of_pos_right hd) (ih (start + d) hds)

theorem durations_pos (bits : List Bool) : ∀ d ∈ durations bits, 0 < d := by
  have hslot : ∀ b, ∀ d ∈ slotDurations b, 0 < d := by decide
  intro d hd
  simp only [durations, List.mem_append, List.mem_flatMap] at hd
  obtain (hlead | ⟨b, -, hb⟩) | htrail := hd
  · exact (by decide : ∀ d ∈ [Config.tLeadLow, Config.tLeadHigh], 0 < d) d hlead
  · exact hslot b d hb
  · exact (by decide : ∀ d ∈ [Config.tMark], 0 < d) d htrail

theorem offsets_pairwise (bits : List Bool) : (offsets bits).Pairwise (· < ·) :=
  (List.isChain_iff_pairwise.1 (isChain_prefixSums 0 (durations_pos bits))).of_cons

/-- Settles O38: each offset is a sum of durations, and these are positive. -/
theorem offsetsArePrefixSums : Obligations.OffsetsArePrefixSums :=
  fun user data => ⟨txSchedule_offsets_length user data, fun _ => txSchedule_offsets_getElem? user data, rfl, rfl,
    offsets_pairwise _⟩

/-! ## The last offsets and wide operands -/

/-- A complement operand is encoded as the negation (45_transmit_encoder.md R96). -/
theorem intToBits_xor_fieldMask (v : Nat) : intToBits (v ^^^ Config.fieldMask) 8 = (intToBits v 8).map not :=
  intToBits_xor_mask v 8

/-- A complement pair of operands has eight `1` slots, whatever the operand. -/
theorem count_true_complement_pair (v : Nat) :
    (intToBits v 8).count true + (intToBits (v ^^^ Config.fieldMask) 8).count true = 8 := by
  rw [intToBits_xor_fieldMask, count_true_add_map_not, intToBits_length]

theorem count_true_txBits (user data : Nat) : (txBits user data).count true = 16 := by
  have huser := count_true_complement_pair user
  have hdata := count_true_complement_pair data
  simp only [txBits, List.count_append]
  omega

theorem txSchedule_durations_sum (user data : Nat) : (txSchedule user data).durations.sum = 67820 := by
  show (durations (txBits user data)).sum = 67820
  rw [durations_sum (txBits_length user data), count_true_txBits]

/-- All durations but the trail. -/
theorem txSchedule_durations_take_66_sum (user data : Nat) :
    ((txSchedule user data).durations.take 66).sum = 67260 := by
  obtain ⟨-, hlen, -, -, htrail, -⟩ := durationsFollowTheSlots user data
  obtain ⟨hlt, htrail⟩ := List.getElem?_eq_some_iff.1 htrail
  have hsum := txSchedule_durations_sum user data
  rw [← List.take_of_length_le hlen.le, List.sum_take_succ _ _ hlt, htrail] at hsum
  omega

/-- An encoding keeps the low bits alone (42_bit_codec.md R80). -/
theorem intToBits_mod (v n : Nat) : intToBits (v % 2 ^ n) n = intToBits v n := by
  calc intToBits (v % 2 ^ n) n
    _ = intToBits (bitsToInt (intToBits v n)) (intToBits v n).length := by
      rw [bitsToInt_intToBits, intToBits_length]
    _ = intToBits v n := intToBits_bitsToInt _

theorem txBits_mod (user data : Nat) : txBits (user % 256) (data % 256) = txBits user data := by
  have hbyte (v : Nat) : intToBits (v % 256) 8 = intToBits v 8 := intToBits_mod v 8
  simp only [txBits, intToBits_xor_fieldMask, hbyte]

/-- Settles O39: the last offset is the sum of all durations, the one before it lacks the trail. -/
theorem scheduleSizesAndTruncation : Obligations.ScheduleSizesAndTruncation := by
  refine ⟨fun user data => ?_, fun bits hlen o ho => ?_, fun user data => ?_⟩
  · have hall : (txSchedule user data).durations.take 67 = (txSchedule user data).durations :=
      List.take_of_length_le (durations_txBits_length user data).le
    rw [txSchedule_offsets_getElem? user data (by omega), txSchedule_offsets_getElem? user data (by omega), hall,
      txSchedule_durations_sum, txSchedule_durations_take_66_sum]
    exact ⟨rfl, rfl⟩
  · obtain ⟨k, hk⟩ := List.mem_iff_getElem?.1 ho
    have hle := offsets_getElem?_le hlen hk
    omega
  · simp only [txSchedule, txBits_mod]

/-! ## The operations -/

theorem txOffsets_toList (user data : Nat) : (txOffsets user data).toList = (txSchedule user data).offsets := by
  refine List.ext_getElem (by simp [txSchedule_offsets_length]) fun i _ hi => ?_
  simp [txOffsets, hi]

theorem exec_send_accepted {t user data : Nat} {s : State} (hout : s.params.hasOutput = true)
    (hidle : s.txBusy = false) (huser : user ≤ 255) (hdata : data ≤ 255) :
    exec (.send t user data) s = .next (startTransmission t user data s) := by
  simp [exec, execSend, hout, hidle, huser, hdata]

/-- Settles O25: the guards of SEND pass, and its offset table is that of the schedule. -/
theorem sendStartsATransmission : Obligations.SendStartsATransmission :=
  fun _ user data _ hout hidle huser hdata =>
    ⟨txOffsets user data, txOffsets_toList user data, exec_send_accepted hout hidle huser hdata⟩

theorem exec_txToggle_due {t : Nat} {s : State} (hreached : toggleReached t s = true)
    (hin : toggleInTime t s = true) : exec (.txToggle t) s = .next (togglePin (nextBoundary s)) := by
  simp [exec, execTxToggle, hreached, hin]

/-- Boundary `k` is reached as R102 tests it, on the counter and after the SEND. -/
theorem toggleReached_iff_counter {t : Nat} {k : Fin 67} {s : State} (hbusy : s.txBusy = true)
    (hidx : s.txIdx = k.val) :
    toggleReached t s = true ↔ s.txOff[k] ≤ counterDiff s.params.clockBits t s.txT0 ∧ s.txStartedAt ≤ t := by
  have hk : s.txIdx ≤ 66 := by omega
  simp only [toggleReached_iff, nextOffset_eq hidx, txElapsed_eq, hbusy, hk, true_and]

/-- Settles O27: the premises are the two guards of the toggle. -/
theorem toggleFlipsThePin : Obligations.ToggleFlipsThePin := by
  intro t k s hbusy hidx helapsed hstart hhi
  rw [exec_txToggle_due ((toggleReached_iff_counter hbusy hidx).2 ⟨helapsed, hstart⟩)
    ((toggleInTime_iff hidx).2 hhi), ← hidx]
  rfl

theorem exec_txToggle_notReached {t : Nat} {s : State} (h : ¬toggleReached t s = true) :
    exec (.txToggle t) s = .fault .toggleNotEnabled :=
  if_pos (Bool.not_eq_true _ ▸ h)

theorem exec_txToggle_tooLate {t : Nat} {s : State} (hreached : toggleReached t s = true)
    (hlate : ¬toggleInTime t s = true) : exec (.txToggle t) s = .fault .toggleTooLate := by
  simp [exec, execTxToggle, hreached, hlate]

/-- Settles O28: the first guard fails unless the boundary is reached, then the second unless it is in time. -/
theorem toggleIsStuckWhenNotDue : Obligations.ToggleIsStuckWhenNotDue := by
  intro t s
  refine ⟨fun hdone => exec_txToggle_notReached ?_, fun k hbusy hidx => ⟨fun hearly => exec_txToggle_notReached ?_,
    fun helapsed hlate =>
      exec_txToggle_tooLate ((toggleReached_iff_counter hbusy hidx).2 ⟨helapsed, by omega⟩) ?_⟩⟩
  · rw [toggleReached_iff]
    rintro ⟨hbusy, hidx, -⟩
    obtain hidle | hall := hdone
    · simp [hidle] at hbusy
    · omega
  · rw [toggleReached_iff_counter hbusy hidx]
    omega
  · rw [toggleInTime_iff hidx]
    omega

theorem exec_txRelease_ready {t : Nat} {s : State} (hbusy : s.txBusy = true) (hidx : s.txIdx = 67) :
    exec (.txRelease t) s = .next (releasePin (endTransmission s)) :=
  if_pos ((releaseReady_iff s).2 ⟨hbusy, hidx⟩)

/-- Settles O29: `releaseReady` is R103's condition. -/
theorem releaseFreesThePin : Obligations.ReleaseFreesThePin := by
  refine fun t s => ⟨fun ⟨hbusy, hidx⟩ => exec_txRelease_ready hbusy hidx, fun hnot => if_neg ?_⟩
  rw [releaseReady_iff]
  rintro ⟨hbusy, hidx⟩
  simp [hbusy, hidx] at hnot

/-- Settles O30: a SEND is refused while busy, and the other operations do not touch the transmitter. -/
theorem transmissionCannotBeDisturbed : Obligations.TransmissionCannotBeDisturbed := by
  intro i s t h hbusy hreset htoggle hrelease
  cases i with
  | send =>
    obtain ⟨-, hidle, -⟩ := execSend_next h
    simp [hbusy] at hidle
  | txToggle n => exact absurd rfl (htoggle n)
  | txRelease n => exact absurd rfl (hrelease n)
  | _ => exact exec_keeps_transmitter h hreset rfl

end Sys2Proof.Proofs
end

section
/-! The transmit family (45_transmit_encoder.md R104, R105): a SEND, its toggles, each late by at most TX_LATENCY_MAX, and
the release put the frame's waveform on the line. The run is followed boundary by boundary. -/

namespace Sys2Proof.Proofs

open Sys2Proof.Machine Sys2Proof.Safety

/-! ## The times of a transmission -/

/-- The times of a transmission's 68 edges, from those of its SEND and its toggles. -/
def edgeAt (n : Nat) (toggleAt : Nat → Nat) : Nat → Nat
  | 0 => n
  | k + 1 => toggleAt k

theorem edges_getD (n : Nat) (toggleAt : Nat → Nat) {k : Nat} (hk : k < 68) :
    (n :: (List.range 67).map toggleAt).getD k 0 = edgeAt n toggleAt k := by
  cases k with
  | zero => rfl
  | succ k => simp [edgeAt, Nat.lt_of_succ_lt_succ hk]

/-- The nominal time of edge `k` from the SEND: the sum of the first `k` durations. -/
def nominalAt (user data k : Nat) : Nat := ((txSchedule user data).durations.take k).sum

theorem nominalAt_succ (user data : Nat) {k : Nat} (hk : k < 67) :
    nominalAt user data (k + 1) = nominalAt user data k + (txSchedule user data).durations.getD k 0 := by
  have hlen : k < (txSchedule user data).durations.length := hk.trans_eq (durations_txBits_length user data).symm
  rw [nominalAt, List.sum_take_succ _ _ hlen, List.getD_eq_getElem _ _ hlen, nominalAt]

theorem txSchedule_offsets_getD (user data : Nat) {k : Nat} (hk : k < 67) :
    (txSchedule user data).offsets.getD k 0 = nominalAt user data (k + 1) := by
  rw [List.getD, txSchedule_offsets_getElem? user data hk]
  rfl

theorem txOffsets_getElem (user data : Nat) (k : Fin 67) : (txOffsets user data)[k] = nominalAt user data (k + 1) := by
  rw [← txSchedule_offsets_getD user data k.isLt, ← txOffsets_toList]
  simp

/-- The edges of a transmission, then its release at time `r`, come in order and on time: each edge from its nominal
time after the SEND to `TX_LATENCY_MAX` after that (45_transmit_encoder.md R104), the release not past a pending
expiry's bound. -/
structure OnSchedule (s : State) (user data : Nat) (edge : Nat → Nat) (r : Nat) : Prop where
  params : s.params.Ok
  ordered : ∀ k < 67, edge k ≤ edge (k + 1)
  released : edge 67 ≤ r
  window : ∀ k ≤ 67, edge 0 + nominalAt user data k ≤ edge k ∧
    edge k ≤ edge 0 + nominalAt user data k + s.params.txLatencyMax
  expiry : s.wdtPending = true → r ≤ s.wdtArmedAt + 100000 + s.params.wdtLatencyMax

/-- What the line shows from edge `k` on, with the edge's time. -/
def edgeOutput (edge : Nat → Nat) (k : Nat) : Emission := ⟨edge k, .txLine (.driven (levelAfter k))⟩

/-- What is still to come after edge `k`: the other `left` toggles, then the release. -/
def afterToggles (edge : Nat → Nat) (r k left : Nat) : List Item :=
  (List.range' k left).map (fun j => .event (.txt (edge (j + 1)))) ++ [.event (.txr r)]

/-- The state after edge `k` of a transmission sent from `s`, with `left` toggles to come. -/
def sentUpTo (s : State) (user data : Nat) (edge : Nat → Nat) (r k left : Nat) : State :=
  { s with
    txOff := txOffsets user data
    txT0 := truncW s.params.clockBits (edge 0)
    txStartedAt := edge 0
    txIdx := k
    txBusy := true
    pinMode := .output
    pinLevel := levelAfter k
    tau := edge k
    script := afterToggles edge r k left
    trace := s.trace ++ (List.range (k + 1)).map (edgeOutput edge) }

/-- The state the toggle after edge `k` is handled in: with the toggle taken and the time moved on. -/
def toggleTaken (s : State) (user data : Nat) (edge : Nat → Nat) (r k left : Nat) : State :=
  { sentUpTo s user data edge r k (left + 1) with script := afterToggles edge r (k + 1) left, tau := edge (k + 1) }

/-! ## The steps -/

/-- A step on a timed event that comes on time runs the row of its key at the event's time. -/
theorem step_timedEvent {s : State} {e : Event} {rest : List Item} {o : Op} {i : Instr} {t : Nat}
    (hs : s.script = .event e :: rest) (ht : e.time = some t) (hon : OnTime t s)
    (hkey : dispatchKey e s = some o.key) (hi : instrOf e o = some i) :
    step s = exec i { s with script := rest, tau := t } := by
  have hstep := step_event_of_key hs (fun _ hn => Option.some.inj (ht.symm.trans hn) ▸ hon) hkey hi
  rwa [ht] at hstep

section
variable {s : State} {user data : Nat} {edge : Nat → Nat} {r : Nat}

theorem edge_le_release (h : OnSchedule s user data edge r) {k : Nat} (hk : k ≤ 67) : edge k ≤ r :=
  Nat.decreasingInduction' (P := fun k => edge k ≤ r) (fun j hj _ hle => (h.ordered j hj).trans hle) hk h.released

/-- The SEND of an idle transmitter drives the first edge. -/
theorem step_send (h : OnSchedule s user data edge r) (hout : s.params.hasOutput = true) (hidle : s.txBusy = false)
    (huser : user ≤ 255) (hdata : data ≤ 255) (hnow : s.tau ≤ edge 0)
    (hs : s.script = .event (.send (edge 0) user data) :: afterToggles edge r 0 67) :
    step s = .next (sentUpTo s user data edge r 0 67) := by
  have hon : OnTime (edge 0) s :=
    ⟨hnow, fun hp => (edge_le_release h (Nat.zero_le _)).trans (h.expiry hp), by simp [hidle]⟩
  exact (step_timedEvent (o := .send) hs rfl hon rfl rfl).trans
    (exec_send_accepted hout hidle huser hdata)

theorem toggle_toggleTaken (k left : Nat) :
    togglePin (nextBoundary (toggleTaken s user data edge r k left)) = sentUpTo s user data edge r (k + 1) left := by
  simp [togglePin, nextBoundary, emit, toggleTaken, sentUpTo, List.range_succ (n := k + 1), edgeOutput, levelAfter_succ]

/-- The toggle of boundary `k` drives the next edge. -/
theorem step_toggle (h : OnSchedule s user data edge r) {k : Nat} (left : Nat) (hk : k < 67) :
    step (sentUpTo s user data edge r k (left + 1)) = .next (sentUpTo s user data edge r (k + 1) left) := by
  obtain ⟨hlo, hhi⟩ := h.window (k + 1) hk
  have hoff := txOffsets_getElem user data ⟨k, hk⟩
  rw [← hoff] at hlo hhi
  have hon : OnTime (edge (k + 1)) (sentUpTo s user data edge r k (left + 1)) := by
    refine ⟨h.ordered k hk, fun hp => (edge_le_release h hk).trans (h.expiry hp), ?_⟩
    rintro j - hj
    obtain rfl : j = ⟨k, hk⟩ := Fin.ext hj.symm
    exact hhi
  have hidx : (toggleTaken s user data edge r k left).txIdx = (⟨k, hk⟩ : Fin 67).val := rfl
  have hreached : toggleReached (edge (k + 1)) (toggleTaken s user data edge r k left) = true :=
    (toggleReached_iff_global (s := toggleTaken s user data edge r k left) h.params (txOffsets_le user data ⟨k, hk⟩)
      rfl hidx ((Nat.le_add_right _ _).trans hlo) rfl hhi).2 hlo
  calc step (sentUpTo s user data edge r k (left + 1))
    _ = exec (.txToggle (edge (k + 1))) (toggleTaken s user data edge r k left) :=
      step_timedEvent (e := .txt (edge (k + 1))) (o := .txToggle) rfl rfl hon rfl rfl
    _ = .next (togglePin (nextBoundary (toggleTaken s user data edge r k left))) :=
      exec_txToggle_due hreached ((toggleInTime_iff hidx).2 hhi)
    _ = _ := by rw [toggle_toggleTaken]

/-- The state after the release at time `r`. -/
def releasedAt (s : State) (user data : Nat) (edge : Nat → Nat) (r : Nat) : State :=
  releasePin (endTransmission { sentUpTo s user data edge r 67 0 with script := [], tau := r })

/-- After the last toggle the release frees the line. -/
theorem step_release (h : OnSchedule s user data edge r) :
    step (sentUpTo s user data edge r 67 0) = .next (releasedAt s user data edge r) := by
  have hon : OnTime r (sentUpTo s user data edge r 67 0) :=
    ⟨h.released, h.expiry, fun k _ hk => absurd hk (Nat.ne_of_gt k.isLt)⟩
  exact (step_timedEvent (e := .txr r) (o := .txRelease) rfl rfl hon rfl rfl).trans
    (exec_txRelease_ready rfl rfl)

/-! ## The run -/

/-- The toggles left run to the last edge. -/
theorem run_toggles (h : OnSchedule s user data edge r) {k left : Nat} (hk : k + left = 67) (j : Nat) :
    Host.Core.run core (j + left) (sentUpTo s user data edge r k left) =
      Host.Core.run core j (sentUpTo s user data edge r 67 0) := by
  induction left generalizing k with
  | zero =>
    obtain rfl : k = 67 := hk
    rfl
  | succ left ih =>
    exact (run_succ (M := core) (j + left) (step_toggle h left (by omega))).trans (ih (by omega))

/-- SEND, 67 toggles and the release: 69 steps. -/
theorem run_transmission (h : OnSchedule s user data edge r)
    (hsend : step s = .next (sentUpTo s user data edge r 0 67)) :
    Host.Core.run core 69 s = .next (releasedAt s user data edge r) := by
  calc Host.Core.run core 69 s
    _ = Host.Core.run core (1 + 67) (sentUpTo s user data edge r 0 67) := run_succ (M := core) 68 hsend
    _ = Host.Core.run core 1 (sentUpTo s user data edge r 67 0) := run_toggles h rfl 1
    _ = Host.Core.run core 0 (releasedAt s user data edge r) := run_succ (M := core) 0 (step_release h)

/-- No interval differs from its duration by more than the lateness bound (45_transmit_encoder.md R105). -/
theorem abs_interval_sub_duration_le (h : OnSchedule s user data edge r) {k : Nat} (hk : k < 67) :
    |(edge (k + 1) : Int) - edge k - (txSchedule user data).durations.getD k 0| ≤ s.params.txLatencyMax := by
  obtain ⟨hlo, hhi⟩ := h.window k (by omega)
  obtain ⟨hlo', hhi'⟩ := h.window (k + 1) hk
  rw [nominalAt_succ user data hk] at hlo' hhi'
  rw [abs_le]
  omega

end

/-- Toggles late by at most the bound, in order and before the release, are on schedule. -/
theorem onSchedule_of_late {s : State} {user data n r : Nat} {late toggleAt : Nat → Nat} (hok : s.params.Ok)
    (htoggle : ∀ k < 67, toggleAt k = n + (txSchedule user data).offsets.getD k 0 + late k)
    (hlate : ∀ k < 67, late k ≤ s.params.txLatencyMax) (hordered : ∀ k < 66, toggleAt k ≤ toggleAt (k + 1))
    (hreleased : toggleAt 66 ≤ r)
    (hexpiry : s.wdtPending = true → r ≤ s.wdtArmedAt + 100000 + s.params.wdtLatencyMax) :
    OnSchedule s user data (edgeAt n toggleAt) r where
  params := hok
  ordered := by
    rintro (_ | k) hk
    · show n ≤ toggleAt 0
      rw [htoggle 0 hk]
      omega
    · exact hordered k (by omega)
  released := hreleased
  window := by
    rintro (_ | k) hk
    · exact ⟨le_rfl, Nat.le_add_right _ _⟩
    · have hoff := txSchedule_offsets_getD user data (k := k) (by omega)
      have hk' := hlate k (by omega)
      have ht := htoggle k (by omega)
      simp only [edgeAt]
      omega
  expiry := hexpiry

/-- Settles O60: the lateness puts every edge on schedule, and the run drives them one by one. -/
theorem transmissionIsTheWaveform : Obligations.TransmissionIsTheWaveform := by
  intro user data n r late s hok hout hidle hnow hexpiry _ hlate x toggleAt hordered hreleased hscript edges
  have h : OnSchedule s user.toNat data.toNat (edgeAt n toggleAt) r :=
    onSchedule_of_late hok (fun _ _ => rfl) hlate hordered hreleased hexpiry
  have hsend := step_send h hout hidle (Nat.le_of_lt_succ user.isLt) (Nat.le_of_lt_succ data.isLt) hnow
    (by rw [hscript, afterToggles, List.range_eq_range']; rfl)
  refine ⟨⟨_, run_transmission h hsend, ?_, rfl, rfl, rfl, rfl,
      ⟨rfl, rfl, rfl, rfl, rfl, rfl, rfl, rfl⟩, rfl, rfl, rfl⟩,
    fun k hk => ?_⟩
  · have hmap : (List.range 68).map (edgeOutput (edgeAt n toggleAt)) = (List.range 68).map fun k =>
        ⟨edges.getD k 0, .txLine (.driven (if k % 2 = 0 then .low else .high))⟩ := by
      refine List.map_congr_left fun k hk => ?_
      rw [edges_getD n toggleAt (List.mem_range.1 hk)]
      rfl
    rw [← hmap]
    rfl
  · rw [edges_getD n toggleAt (by omega), edges_getD n toggleAt (by omega)]
    exact abs_interval_sub_duration_le h hk

end Sys2Proof.Proofs
end

section
/-! The facade family (46_controller_facade.md): the two receive commands, the refusals of SEND, and where a callback can
come from. -/

namespace Sys2Proof.Proofs

open Sys2Proof.Machine

/-! ## The receive commands (R108, R109) -/

theorem exec_startReceive_withInput {s : State} (h : s.params.hasInput = true) :
    exec .startReceive s = .next (subscribe true (attemptReset s)) :=
  if_pos h

theorem exec_startReceive_withoutInput {s : State} (h : s.params.hasInput = false) :
    exec .startReceive s = .next (emit (.diag .noInputCapability) s) :=
  if_neg (Bool.eq_false_iff.1 h)

/-- Settles O4: the two branches of the input test. -/
theorem startReceiveResetsAttemptAndSubscribes : Obligations.StartReceiveResetsAttemptAndSubscribes :=
  fun _ => ⟨exec_startReceive_withInput, exec_startReceive_withoutInput⟩

/-- Settles O5: `subscribe` writes `rxEnable` alone. -/
theorem stopReceiveOnlyUnsubscribes : Obligations.StopReceiveOnlyUnsubscribes :=
  fun _ => rfl

/-! ## The refusals of SEND (R110) -/

theorem exec_send_withoutOutput {t user data : Nat} {s : State} (h : s.params.hasOutput = false) :
    exec (.send t user data) s = .refused .sendWithoutOutput :=
  if_pos h

theorem exec_send_busy {t user data : Nat} {s : State} (hout : s.params.hasOutput = true) (h : s.txBusy = true) :
    exec (.send t user data) s = .refused .sendWhileBusy := by
  simp [exec, execSend, hout, h]

theorem exec_send_outOfRange {t user data : Nat} {s : State} (hout : s.params.hasOutput = true)
    (hidle : s.txBusy = false) (h : 255 < user ∨ 255 < data) :
    exec (.send t user data) s = .refused .sendOperandOutOfRange := by
  simp [exec, execSend, hout, hidle, h]

/-- Settles O26: by the guards in their order, each case has its refusal, and outside all three SEND is accepted. -/
theorem sendIsRefusedExactlyInThreeCases : Obligations.SendIsRefusedExactlyInThreeCases := by
  intro t user data s
  cases hout : s.params.hasOutput with
  | false => simp [exec_send_withoutOutput hout]
  | true =>
    cases hbusy : s.txBusy with
    | true => simp [exec_send_busy hout hbusy]
    | false =>
      by_cases hrange : 255 < user ∨ 255 < data
      · simp [exec_send_outOfRange hout hbusy hrange, hrange]
      · have haccepted := exec_send_accepted (t := t) hout hbusy (user := user) (data := data) (by omega) (by omega)
        simp [haccepted, hrange]

/-! ## Where a callback comes from (R111) -/

/-- Of all operations only DQ.RUN.VALIDATE can call back: the others record nothing new, or one output of another
port. -/
theorem eq_dqRunValidate_of_callback {i : Instr} {s t : State} {e : Emission} {user data : Byte}
    (h : exec i s = .next t) (he : e ∈ t.trace.drop s.trace.length) (hcall : e.what = .callback user data) :
    i = .dqRunValidate := by
  cases exec_effect h with
  | ran x rest o =>
    cases x with
    | validate f => rfl
    | diag kind =>
      obtain ⟨kind, rest', -, ht⟩ := execDqRunDiag_next h
      obtain rfl : e = ⟨s.tau, .diag kind⟩ := by simpa [ht] using he
      cases hcall
  | reset | subscribed | unsubscribed | aborted | leadRisen | leadFallen | marked | stored | completed | timedOut
  | disarmed | framed => simp at he
  | resetDriven | warned | sent | opened | toggled | released | returned =>
    obtain rfl : e = ⟨s.tau, _⟩ := by simpa using he
    cases hcall

theorem fields_of_valid {f : Frame} {user data : Byte} (h : validateFrame f = .valid user data) :
    field f 0 = user ∧ field f 2 = data ∧ field f 0 ^^^ field f 1 = 0xFF ∧ field f 2 ^^^ field f 3 = 0xFF := by
  obtain ⟨huser, hdata⟩ := validateFrame_ne_invalid (f := f) (by rw [h]; nofun)
  obtain ⟨rfl, rfl⟩ := Verdict.valid.inj ((validateFrame_eq_of_xor huser hdata).symm.trans h)
  exact ⟨rfl, rfl, huser, hdata⟩

/-- Settles O56: the operation is DQ.RUN.VALIDATE, whose callback carries what the validator found in the head frame. -/
theorem callbackOnlyForAValidFrame : Obligations.CallbackOnlyForAValidFrame := by
  intro i s t e user data h he hcall
  obtain rfl := eq_dqRunValidate_of_callback h he hcall
  obtain ⟨f, rest, hq, ⟨user', data', hvalid, rfl⟩ | ⟨-, rfl⟩⟩ := execDqRunValidate_next h
  · obtain rfl : e = ⟨s.tau, .callback user' data'⟩ := by simpa using he
    obtain ⟨rfl, rfl⟩ := Output.callback.inj hcall
    exact ⟨rfl, f, hq, fields_of_valid hvalid⟩
  · obtain rfl : e = ⟨s.tau, .diag .checksumFailure⟩ := by simpa using he
    cases hcall

end Sys2Proof.Proofs
end

section
/-! The deferred executor family (47_deferred_executor.md): what a DQ.RUN leaves for each kind of head, and how the queue
and its overflow mark can change. -/

namespace Sys2Proof.Proofs

open Sys2Proof.Machine Sys2Proof.Safety

/-! ## The DQ.RUN of each head (R115, R116) -/

theorem exec_dqRunValidate_invalid {s : State} {f : Frame} {rest : List WorkItem} (hq : s.dq = .validate f :: rest)
    (hf : validateFrame f = .invalid) :
    exec .dqRunValidate s = .next (emit (.diag .checksumFailure) (withQueue rest s)) := by
  simp [exec, execDqRunValidate, hq, hf]

theorem exec_dqRunDiag_head {s : State} {kind : DiagKind} {rest : List WorkItem} (hq : s.dq = .diag kind :: rest) :
    exec .dqRunDiag s = .next (emit (.diag kind) (withQueue rest s)) := by
  simp [exec, execDqRunDiag, hq]

/-- Settles O19: the two verdicts of the validator on the head frame. -/
theorem validateItemCallsBackOrDiscards : Obligations.ValidateItemCallsBackOrDiscards :=
  fun _ _ _ hq => ⟨fun _ _ => exec_dqRunValidate_valid hq, exec_dqRunValidate_invalid hq⟩

/-- Settles O20: `withQueue` writes the queue alone, and `emit` adds the one output. -/
theorem diagItemEmitsItsKind : Obligations.DiagItemEmitsItsKind :=
  fun _ _ _ => exec_dqRunDiag_head

/-! ## How the queue and its overflow mark change (R114, R117, R118) -/

/-- Settles O22: each move of the queue is one of the listed cases; the kind of the item taken tells which DQ.RUN. -/
theorem queueIsFirstInFirstOut : Obligations.QueueIsFirstInFirstOut := by
  intro i s t h
  cases exec_queueMove h with
  | kept hsame => exact .inl hsame.1
  | appended x hi _ _ hdq => exact .inr (.inl ⟨x, hdq, hi⟩)
  | dropped _ _ hdq => exact .inl hdq
  | cleared hreset => exact .inr (.inr (.inl hreset))
  | taken x hrun hdq =>
    cases x with
    | validate f => exact .inr (.inr (.inr (.inl ⟨f, hrun, hdq⟩)))
    | diag kind => exact .inr (.inr (.inr (.inr ⟨kind, hrun, hdq⟩)))

/-- Settles O24: of the moves of the queue, all but the drop on a full queue keep the mark or clear it. -/
theorem overflowMarkMeansAFullQueue : Obligations.OverflowMarkMeansAFullQueue := by
  intro i s t h hclear hset
  have hnew : t.dqOverflow ≠ s.dqOverflow := by simp [hclear, hset]
  cases exec_queueMove h with
  | dropped hi hfull hdq _ hfault => exact ⟨hi, hfull, hdq, hfault⟩
  | kept hsame =>
    obtain ⟨-, hov, -⟩ := hsame
    exact absurd hov hnew
  | cleared _ _ hov => exact absurd (hov.trans hclear.symm) hnew
  | appended _ _ _ _ _ hov => exact absurd hov hnew
  | taken _ _ _ hov => exact absurd hov hnew

end Sys2Proof.Proofs
end

section
/-! The transmitter's invariants (10_state.md R32): kept by every step. -/

namespace Sys2Proof.Proofs

open Sys2Proof.Machine Sys2Proof.Safety

/-- Item 3 of the transmitter's invariants, of the offset table alone. -/
def IsOffsetTable (off : Vector Nat 67) : Prop :=
  (∀ k : Fin 66, off[k.val] < off[k.val + 1]) ∧ off[0] = 9000 ∧ off[1] = 13500

theorem txOffsets_eq_of_offset {user data k n : Nat} (hk : k < 67)
    (h : (txSchedule user data).offsets[k]? = some n) : (txOffsets user data)[k] = n := by
  rw [← txOffsets_toList] at h
  simpa [hk] using h

/-- The table a SEND writes, whatever its operands (45_transmit_encoder.md R98). -/
theorem isOffsetTable_txOffsets (user data : Nat) : IsOffsetTable (txOffsets user data) := by
  obtain ⟨-, -, h0, h1, hincreasing⟩ := offsetsArePrefixSums user data
  rw [← txOffsets_toList] at hincreasing
  refine ⟨fun k => ?_, txOffsets_eq_of_offset _ h0, txOffsets_eq_of_offset _ h1⟩
  have h := List.pairwise_iff_getElem.1 hincreasing k (k + 1)
    (by rw [Vector.length_toList]; omega) (by rw [Vector.length_toList]; omega) (Nat.lt_succ_self _)
  simpa only [Vector.getElem_toList] using h

theorem txInv_idle {s : State} (hbusy : s.txBusy = false) (hpin : s.pinMode = .input) (hidx : s.txIdx = 0)
    (hoff : IsOffsetTable s.txOff) : TxInv s :=
  ⟨fun _ => ⟨hpin, hidx⟩, by simp [hbusy], hoff⟩

theorem txInv_busy {s : State} (hbusy : s.txBusy = true) (hpin : s.pinMode = .output) (hidx : s.txIdx ≤ 67)
    (hlevel : s.pinLevel = levelAfter s.txIdx) (hoff : IsOffsetTable s.txOff) : TxInv s :=
  ⟨by simp [hbusy], fun _ => ⟨hpin, hidx, hlevel⟩, hoff⟩

/-- They speak of the transmitter's registers alone. -/
theorem txInv_of_same {s t : State} (hs : TxInv s) (hsame : SameTransmitter s t) : TxInv t := by
  obtain ⟨hbusy, -, -, hoff, hidx, hpin, hlevel⟩ := hsame
  rwa [TxInv, hbusy, hoff, hidx, hpin, hlevel]

/-- A SEND starts at `Low` with no boundary done, a toggle flips the level and counts one more, the release and RESET
leave an idle transmitter; no other operation touches it. -/
theorem exec_keeps_txInv {i : Instr} {s t : State} (h : exec i s = .next t) (hs : TxInv s) : TxInv t := by
  have ⟨_, hdriven, hoff⟩ := hs
  cases i with
  | reset =>
    obtain ⟨-, rfl⟩ | ⟨-, rfl⟩ := execReset_next h
    · exact txInv_idle rfl rfl rfl (isOffsetTable_txOffsets 0 0)
    · exact txInv_idle rfl rfl rfl (isOffsetTable_txOffsets 0 0)
  | send n user data =>
    obtain ⟨-, -, -, -, rfl⟩ := execSend_next h
    exact txInv_busy rfl rfl (Nat.zero_le _) rfl (isOffsetTable_txOffsets user data)
  | txToggle =>
    obtain ⟨hbusy, hidx, -, -, -, rfl⟩ := execTxToggle_next h
    obtain ⟨hpin, -, hlevel⟩ := hdriven hbusy
    have hflip : s.pinLevel.flip = levelAfter (s.txIdx + 1) := by rw [levelAfter_succ, hlevel]
    exact txInv_busy hbusy hpin (Nat.succ_le_succ hidx) hflip hoff
  | txRelease n =>
    obtain ⟨-, -, rfl⟩ := execTxRelease_next (t := n) h
    exact txInv_idle rfl rfl rfl hoff
  | _ => exact txInv_of_same hs (exec_keeps_transmitter h nofun rfl)

/-- Settles O48: every operation keeps the three items; taking an item of the script touches none of them. -/
theorem stepKeepsTheTransmitterInvariants : Obligations.StepKeepsTheTransmitterInvariants :=
  fun _ _ hs h => step_keeps (P := TxInv) (fun _ _ _ => id) (fun _ _ _ hs h => exec_keeps_txInv h hs) hs h

end Sys2Proof.Proofs
end

section
/-! The encoding (30_encoding.md): an operand reader accepts exactly what its writer writes, so the decoder accepts exactly
the encodings; and the keys of the table. -/

namespace Sys2Proof.Proofs

open Sys2Proof.Machine

/-! ## Operand readers -/

/-- An operand reader accepts exactly the bytes of the values that fit its width, and answers what follows them. -/
def Reads {α : Type} (take : List Byte → Taken α) (fits : α → Prop) (bytes : α → List Byte) : Prop :=
  ∀ bs a rest, take bs = .ok (a, rest) ↔ fits a ∧ bs = bytes a ++ rest

theorem leNat_lt (bs : List Byte) : leNat bs < 256 ^ bs.length := by
  induction bs with
  | nil => simp [leNat]
  | cons b bs ih =>
    have hb := b.isLt
    rw [leNat, List.length_cons, Nat.pow_succ]
    omega

theorem natBytes_leNat (bs : List Byte) : natBytes bs.length (leNat bs) = bs := by
  induction bs with
  | nil => rfl
  | cons b bs ih =>
    have hb := b.isLt
    have hlow : BitVec.ofNat 8 (b.toNat + 256 * leNat bs) = b := by
      apply BitVec.eq_of_toNat_eq
      rw [BitVec.toNat_ofNat]
      omega
    have hhigh : (b.toNat + 256 * leNat bs) / 256 = leNat bs := by omega
    rw [leNat, List.length_cons, natBytes, hlow, hhigh, ih]

theorem reads_takeNat : Reads takeNat fitsOperand (natBytes 8) := by
  intro bs n rest
  refine ⟨fun h => ?_, fun ⟨hn, hbs⟩ => hbs ▸ takeNat_natBytes rest hn⟩
  rw [takeNat] at h
  split at h
  · cases h
  · cases h
    have hlen : (bs.take 8).length = 8 := by rw [List.length_take]; omega
    have hlt := leNat_lt (bs.take 8)
    have hbytes := natBytes_leNat (bs.take 8)
    rw [hlen] at hlt hbytes
    exact ⟨hlt, by rw [hbytes, List.take_append_drop]⟩

theorem reads_takeByte : Reads takeByte (fun _ => True) ([·]) := by
  intro bs b rest
  cases bs <;> simp [takeByte]

theorem reads_takeLevel : Reads takeLevel (fun _ => True) (fun lvl => [levelByte lvl]) := by
  intro bs lvl rest
  refine ⟨fun h => ⟨trivial, ?_⟩, fun ⟨_, hbs⟩ => hbs ▸ takeLevel_levelByte lvl rest⟩
  unfold takeLevel at h
  split at h
  · cases h
  split at h
  next hb =>
    cases h
    rw [hb]
    rfl
  split at h
  next hb =>
    cases h
    rw [hb]
    rfl
  cases h

theorem map_eq_ok_iff {ε α β : Type} {f : α → β} {x : Except ε α} {b : β} :
    x.map f = .ok b ↔ ∃ a, x = .ok a ∧ f a = b := by
  cases x <;> simp [Except.map]

theorem reads_takeBits : Reads takeBits (fun _ => True) bitBytes := by
  intro bs seq rest
  refine ⟨fun h => ⟨trivial, ?_⟩, fun ⟨_, hbs⟩ => hbs ▸ takeBits_bitBytes seq rest⟩
  induction bs generalizing seq with
  | nil => cases h
  | cons b bs ih =>
    have hcons (c : Bool) (hc : (takeBits bs).map (fun p => (c :: p.1, p.2)) = .ok (seq, rest)) :
        (if c then 3 else 2) :: bs = bitBytes seq ++ rest := by
      obtain ⟨⟨tail, rest'⟩, htail, he⟩ := map_eq_ok_iff.1 hc
      cases he
      rw [ih tail htail]
      rfl
    rw [takeBits] at h
    split at h
    next hb =>
      cases h
      rw [hb]
      rfl
    split at h
    next hb => exact hb ▸ hcons false h
    split at h
    next hb => exact hb ▸ hcons true h
    cases h

section
variable {α : Type} {take : List Byte → Taken α} {fits : α → Prop} {bytes : α → List Byte}
  {row : α × List Byte → Instr × List Byte} {bs rest : List Byte} {i : Instr}

theorem Reads.both {β : Type} {second : List Byte → Taken β} {fits' : β → Prop} {bytes' : β → List Byte}
    (hfirst : Reads take fits bytes) (hsecond : Reads second fits' bytes') :
    Reads (takeBoth take second) (fun p => fits p.1 ∧ fits' p.2) (fun p => bytes p.1 ++ bytes' p.2) := by
  rintro bs ⟨a, b⟩ rest
  constructor
  · intro h
    obtain ⟨mid, ha, hb⟩ := takeBoth_ok h
    obtain ⟨hfits, rfl⟩ := (hfirst _ _ _).1 ha
    obtain ⟨hfits', rfl⟩ := (hsecond _ _ _).1 hb
    exact ⟨⟨hfits, hfits'⟩, (List.append_assoc _ _ _).symm⟩
  · rintro ⟨⟨hfits, hfits'⟩, rfl⟩
    have ha := (hfirst _ _ _).2 ⟨hfits, List.append_assoc (bytes a) (bytes' b) rest⟩
    have hb := (hsecond (bytes' b ++ rest) b rest).2 ⟨hfits', rfl⟩
    rw [takeBoth, ha]
    simp only [hb]

/-- A row of the decoder, which leaves the bytes after its operands, accepts only the bytes of operands that fit. -/
theorem Reads.of_map_ok (h : Reads take fits bytes) (hrow : ∀ p, (row p).2 = p.2)
    (hok : (take bs).map row = .ok (i, rest)) :
    ∃ a, row (a, rest) = (i, rest) ∧ fits a ∧ bs = bytes a ++ rest := by
  obtain ⟨⟨a, rest'⟩, htake, he⟩ := map_eq_ok_iff.1 hok
  obtain rfl : rest' = rest := (hrow (a, rest')).symm.trans (congrArg Prod.snd he)
  exact ⟨a, he, (h _ _ _).1 htake⟩

/-- A keyed operation is read back where its bytes are its row's key and the operand bytes of `a`, and its row makes it
of `a`. -/
theorem Reads.decode_encode {o : Op} {a : α} (h : Reads take fits bytes) (hfits : fits a) (hformat : i.format = .key)
    (hbytes : encode i = o.key :: bytes a) (hrow : ∀ bs, decodeOperands o bs = (take bs).map row)
    (hi : row (a, rest) = (i, rest)) :
    decode i.format (encode i ++ rest) = .ok (i, rest) := by
  rw [hformat, hbytes]
  calc decodeKey (o.key :: (bytes a ++ rest)) = decodeOperands o (bytes a ++ rest) := decodeKey_key o _
    _ = (take (bytes a ++ rest)).map row := hrow _
    _ = .ok (i, rest) := map_eq_ok_iff.2 ⟨(a, rest), (h _ a rest).2 ⟨hfits, rfl⟩, hi⟩

end

theorem reads_takeTimeLevel :
    Reads takeTimeLevel (fun p => fitsOperand p.1 ∧ True) (fun p => natBytes 8 p.1 ++ [levelByte p.2]) :=
  reads_takeNat.both reads_takeLevel

theorem reads_takeNat2 :
    Reads takeNat2 (fun p => fitsOperand p.1 ∧ fitsOperand p.2) (fun p => natBytes 8 p.1 ++ natBytes 8 p.2) :=
  reads_takeNat.both reads_takeNat

theorem reads_takeSend :
    Reads takeSend (fun p => fitsOperand p.1 ∧ True ∧ True) (fun p => natBytes 8 p.1 ++ [p.2.1, p.2.2]) :=
  reads_takeNat.both (reads_takeByte.both reads_takeByte)

theorem reads_takeFields :
    Reads takeFields (fun _ => True ∧ True ∧ True ∧ True) (fun p => [p.1, p.2.1, p.2.2.1, p.2.2.2]) :=
  reads_takeByte.both (reads_takeByte.both (reads_takeByte.both reads_takeByte))

/-! ## Decode and encode -/

/-- A row accepts only the encodings of its own well-formed operations. -/
theorem decodeOperands_ok {o : Op} {bs rest : List Byte} {i : Instr} (h : decodeOperands o bs = .ok (i, rest)) :
    i.format = .key ∧ i.WellFormed ∧ o.key :: bs = encode i ++ rest := by
  cases o with
  | reset | startReceive | stopReceive | dqRunValidate | dqRunDiag =>
    cases h
    exact ⟨rfl, trivial, rfl⟩
  | send =>
    obtain ⟨⟨t, user, data⟩, ⟨⟩, ⟨ht, -⟩, rfl⟩ := reads_takeSend.of_map_ok (fun _ => rfl) h
    refine ⟨rfl, ⟨ht, user.isLt, data.isLt⟩, ?_⟩
    simp [encode]
  | edgeLeadfall | edgeLeadrise | edgeBitfallFirst | edgeBitfallNext | edgeBitriseMark | edgeBitriseTerm =>
    obtain ⟨⟨t, lvl⟩, ⟨⟩, ⟨ht, -⟩, rfl⟩ := reads_takeTimeLevel.of_map_ok (fun _ => rfl) h
    exact ⟨rfl, ht, rfl⟩
  | wdtExpire | txToggle | txRelease =>
    obtain ⟨t, ⟨⟩, ht, rfl⟩ := reads_takeNat.of_map_ok (fun _ => rfl) h
    exact ⟨rfl, ht, rfl⟩
  | bitsToInt =>
    obtain ⟨seq, ⟨⟩, -, rfl⟩ := reads_takeBits.of_map_ok (fun _ => rfl) h
    exact ⟨rfl, trivial, rfl⟩
  | intToBits | txSchedule | within =>
    obtain ⟨⟨a, b⟩, ⟨⟩, ⟨ha, hb⟩, rfl⟩ := reads_takeNat2.of_map_ok (fun _ => rfl) h
    exact ⟨rfl, ⟨ha, hb⟩, rfl⟩
  | validateFrame =>
    obtain ⟨⟨a, b, c, d⟩, ⟨⟩, -, rfl⟩ := reads_takeFields.of_map_ok (fun _ => rfl) h
    obtain ⟨h0, h1, h2, h3⟩ := field_frameOfFields a b c d
    refine ⟨rfl, trivial, ?_⟩
    rw [encode, frameBytes, h0, h1, h2, h3]
    rfl

theorem decodeKey_ok {bs rest : List Byte} {i : Instr} (h : decodeKey bs = .ok (i, rest)) :
    i.format = .key ∧ i.WellFormed ∧ bs = encode i ++ rest := by
  unfold decodeKey at h
  split at h
  · cases h
  split at h
  · rename_i hop
    rw [← key_of_opOfKey hop]
    exact decodeOperands_ok h
  · cases h

theorem reads_wire : Reads (takeBoth takeFields takeNat) (fun p => (True ∧ True ∧ True ∧ True) ∧ fitsOperand p.2)
    (fun p => [p.1.1, p.1.2.1, p.1.2.2.1, p.1.2.2.2] ++ natBytes 8 p.2) :=
  reads_takeFields.both reads_takeNat

theorem decodeWire_ok {bs rest : List Byte} {i : Instr} (h : decodeWire bs = .ok (i, rest)) :
    i.format = .wire ∧ i.WellFormed ∧ bs = encode i ++ rest := by
  obtain ⟨⟨⟨user, userC, data, dataC⟩, t0⟩, ⟨⟩, ⟨-, ht⟩, rfl⟩ := reads_wire.of_map_ok (fun _ => rfl) h
  exact ⟨rfl, ht, rfl⟩

/-- Settles O46: a key has one row, and each row, like the wire format, accepts only encodings. -/
theorem onlyEncodingsDecode : Obligations.OnlyEncodingsDecode := by
  intro fmt bytes rest i h
  cases fmt with
  | key => exact decodeKey_ok h
  | wire => exact decodeWire_ok h

/-- Settles O45: the bytes lead to the operation's row, which reads its own operands back. -/
theorem decodeOfEncodeIsTheOperation : Obligations.DecodeOfEncodeIsTheOperation := by
  intro i rest hwf
  cases i with
  | reset | startReceive | stopReceive | dqRunValidate | dqRunDiag => rfl
  | send t user data =>
    obtain ⟨ht, huser, hdata⟩ := hwf
    have huser' : (BitVec.ofNat 8 user).toNat = user := Nat.mod_eq_of_lt huser
    have hdata' : (BitVec.ofNat 8 data).toNat = data := Nat.mod_eq_of_lt hdata
    exact reads_takeSend.decode_encode (a := (t, .ofNat 8 user, .ofNat 8 data)) ⟨ht, trivial, trivial⟩ rfl rfl
      (fun _ => rfl) (by rw [huser', hdata'])
  | edgeLeadfall t lvl | edgeLeadrise t lvl | edgeBitfallFirst t lvl | edgeBitfallNext t lvl | edgeBitriseMark t lvl
  | edgeBitriseTerm t lvl =>
    exact reads_takeTimeLevel.decode_encode (a := (t, lvl)) ⟨hwf, trivial⟩ rfl rfl (fun _ => rfl) rfl
  | wdtExpire t | txToggle t | txRelease t => exact reads_takeNat.decode_encode hwf rfl rfl (fun _ => rfl) rfl
  | bitsToInt seq => exact reads_takeBits.decode_encode trivial rfl rfl (fun _ => rfl) rfl
  | intToBits a b | txSchedule a b | within a b =>
    exact reads_takeNat2.decode_encode (a := (a, b)) hwf rfl rfl (fun _ => rfl) rfl
  | validateFrame f =>
    exact reads_takeFields.decode_encode (a := (field f 0, field f 1, field f 2, field f 3))
      ⟨trivial, trivial, trivial, trivial⟩ rfl rfl (fun _ => rfl) (by rw [frameOfFields_fields])
  | frame t0 user userC data dataC =>
    have hread : takeBoth takeFields takeNat (encode (.frame t0 user userC data dataC) ++ rest) =
        .ok (((user, userC, data, dataC), t0), rest) :=
      (reads_wire _ _ rest).2 ⟨⟨⟨trivial, trivial, trivial, trivial⟩, hwf⟩, rfl⟩
    rw [Instr.format, decode, decodeWire, hread]
    rfl

/-! ## The keys of the table -/

theorem opOfKey_eq_none {b : Byte} (h : ∀ o : Op, o.key ≠ b) : opOfKey b = none :=
  Option.eq_none_iff_forall_ne_some.2 fun o ho => h o (key_of_opOfKey ho)

theorem decodeTableWord_noSuchKey {b : Byte} (h : opOfKey b = none) : decodeTableWord 8 b.toNat = none := by
  simp [decodeTableWord, tableBytes, natBytes, decode, decodeKey, h]

/-- Settles O44: the words of the table are evaluated; a byte outside the list is no row's key. -/
theorem tableWordsDecodeToTheirRows : Obligations.TableWordsDecodeToTheirRows := by
  refine ⟨by decide, by decide, by decide, by decide, by decide, by decide, by decide, by decide, by decide, by decide,
    by decide, by decide, by decide, by decide, by decide, by decide, by decide, by decide, by decide, by decide,
    by decide, fun b hlow hhigh => decodeTableWord_noSuchKey (opOfKey_eq_none fun o ho => ?_)⟩
  have hkeys : o.key ∈ ([0x00, 0x10, 0x20, 0x30, 0x40, 0x42, 0x44, 0x46, 0x48, 0x49] : List Byte) ∨
      o.key ∈ ([0x50, 0x60, 0x61, 0x70, 0x80, 0xF0, 0xF1, 0xF2, 0xF3, 0xF4] : List Byte) := by
    cases o <;> decide
  rw [ho] at hkeys
  exact hkeys.elim hlow hhigh

end Sys2Proof.Proofs
end

section
/-! What a whole step and every operation keep to (60_exceptions.md R133, 70_reset_and_hazards.md R146, R157,
41_receive_state_machine.md R73), and where a step or an operation does not run (93_implementation_defined.md U18). -/

namespace Sys2Proof.Proofs

open Sys2Proof.Machine Sys2Proof.Safety

/-! ## Parameters, time, outputs and the fault mark -/

/-- An operation takes back no output: it records nothing new, or adds one output at the end. -/
theorem exec_trace {i : Instr} {s t : State} (h : exec i s = .next t) : ∃ out, t.trace = s.trace ++ out := by
  cases exec_effect h with
  | reset | subscribed | unsubscribed | leadRisen | leadFallen | marked | stored | disarmed | framed =>
    exact ⟨[], (List.append_nil _).symm⟩
  | aborted => exact ⟨[], (abort_trace _ _).trans (List.append_nil _).symm⟩
  | completed | timedOut => exact ⟨[], (enqueue_trace _ _).trans (List.append_nil _).symm⟩
  | resetDriven | warned | sent | opened | ran | toggled | released | returned => exact ⟨_, rfl⟩

theorem exec_faulted_of_faulted {i : Instr} {s t : State} (h : exec i s = .next t) (hs : s.faulted = true) :
    t.faulted = true := by
  cases exec_queueMove h with
  | kept hsame =>
    obtain ⟨-, -, hf⟩ := hsame
    exact hf.trans hs
  | cleared _ _ _ hf => exact hf.trans hs
  | appended _ _ _ _ _ _ hf => exact hf.trans hs
  | dropped _ _ _ _ hf => exact hf
  | taken _ _ _ _ hf => exact hf.trans hs

/-- Settles O52: the time moves only when an item is taken, on time, and no operation undoes any of the four. -/
theorem parametersStayAndTimeNeverDecreases : Obligations.ParametersStayAndTimeNeverDecreases := by
  intro s s' h
  obtain rfl | ⟨rest, time, hon, hcase⟩ := step_next_cases h
  · exact ⟨rfl, le_rfl, ⟨[], (List.append_nil _).symm⟩, id⟩
  have hle : s.tau ≤ time.getD s.tau := by
    cases time with
    | none => exact le_rfl
    | some t => exact (hon t rfl).1
  obtain rfl | ⟨i, -, hexec⟩ := hcase
  · exact ⟨rfl, hle, ⟨[], (List.append_nil _).symm⟩, id⟩
  · have hparams := exec_params hexec
    have hout := exec_trace hexec
    have hfault := exec_faulted_of_faulted hexec
    exact ⟨hparams, hle.trans_eq (exec_tau hexec).symm, hout, hfault⟩

/-! ## The contexts -/

/-- An interrupt emits at most the arming of the watchdog, which is not observable (10_state.md R34). -/
theorem exec_observed_of_interrupt {i : Instr} {s t : State} (h : exec i s = .next t)
    (hi : inInterruptContext i = true) : t.observed = s.observed := by
  cases exec_effect h with
  | aborted | completed | timedOut | opened | leadRisen | leadFallen | marked | stored | disarmed =>
    simp [State.observed, Output.observable]
  | ran x => cases x <;> cases hi
  | returned i v hagent => simp [inInterruptContext, Instr.domain, hagent] at hi
  | reset | resetDriven | subscribed | warned | unsubscribed | sent | toggled | released | framed => cases hi

theorem exec_rxEnable_of_interrupt {i : Instr} {s t : State} (h : exec i s = .next t)
    (hi : inInterruptContext i = true) : t.rxEnable = s.rxEnable := by
  cases exec_effect h with
  | aborted => exact abort_rxEnable _ _
  | completed | timedOut => exact enqueue_rxEnable _ _
  | opened | leadRisen | leadFallen | marked | stored | disarmed | ran | returned | sent | toggled | released | framed
  | warned => rfl
  | reset | resetDriven | subscribed | unsubscribed => cases hi

/-- RESET and the transmitter's operations run in the caller's context (60_exceptions.md R133). -/
theorem not_ofTransmitter_of_interrupt {i : Instr} (hi : inInterruptContext i = true) :
    i ≠ .reset ∧ ofTransmitter i = false := by
  cases i with
  | reset | send | txToggle | txRelease => cases hi
  | _ => exact ⟨nofun, rfl⟩

theorem exec_dqRun {i : Instr} {s t : State} (h : exec i s = .next t) (hi : i = .dqRunValidate ∨ i = .dqRunDiag) :
    ∃ o rest, t = emit o (withQueue rest s) := by
  obtain rfl | rfl := hi
  · obtain ⟨f, rest, -, ⟨_, _, -, ht⟩ | ⟨-, ht⟩⟩ := execDqRunValidate_next h
    · exact ⟨_, rest, ht⟩
    · exact ⟨_, rest, ht⟩
  · obtain ⟨kind, rest, -, ht⟩ := execDqRunDiag_next h
    exact ⟨_, rest, ht⟩

/-- Settles O55: an interrupt's only output is the arming; a DQ.RUN emits and takes the head of the queue. -/
theorem contextsKeepToTheirOwn : Obligations.ContextsKeepToTheirOwn := by
  intro i s t h
  refine ⟨fun hi => ?_, fun hi => ?_⟩
  · obtain ⟨hreset, htx⟩ := not_ofTransmitter_of_interrupt hi
    exact ⟨exec_observed_of_interrupt h hi, exec_keeps_transmitter h hreset htx, exec_rxEnable_of_interrupt h hi⟩
  · obtain ⟨o, rest, rfl⟩ := exec_dqRun h hi
    exact ⟨⟨rfl, rfl, rfl, rfl, rfl, rfl, rfl, rfl⟩, ⟨rfl, rfl, rfl, rfl, rfl, rfl, rfl⟩, rfl, rfl⟩

/-! ## The transition table -/

/-- A checked edge leaves the stage of R73's row: on to `dst` inside the window around its nominal, idle outside it. -/
theorem stage_of_checked {src dst : Stage} {lo n : Nat} {s t : State}
    (h : Selected src s ∧ ((within (edgeDelta n s) (lo + 500) = true ∧ t = goto dst (stamp n s)) ∨
      (within (edgeDelta n s) (lo + 500) = false ∧ t = aborted .timingViolation n s))) :
    let delta := counterDiff s.params.clockBits n s.lastTs
    s.stage = src ∧ s.ptr ≠ 32 ∧ (((lo ≤ delta ∧ delta ≤ lo + 1000) ∧ t.stage = dst) ∨
      (¬(lo ≤ delta ∧ delta ≤ lo + 1000) ∧ t.stage = .awaitLeadFall)) := by
  obtain ⟨⟨-, hstage, hptr⟩, hcase⟩ := h
  rw [edgeDelta_eq] at hcase
  refine ⟨hstage, hptr, ?_⟩
  obtain ⟨hin, rfl⟩ | ⟨hout, rfl⟩ := hcase
  · have := (within_iff _ _).1 hin
    exact .inl ⟨by omega, rfl⟩
  · have := mt (within_iff _ _).2 (Bool.eq_false_iff.1 hout)
    exact .inr ⟨by omega, rfl⟩

/-- A space in one of the two windows goes on to the next slot's mark, any other leaves the receiver idle. -/
theorem stage_of_edgeBitfallNext {n : Nat} {lvl : Level} {s t : State} (h : exec (.edgeBitfallNext n lvl) s = .next t) :
    let delta := counterDiff s.params.clockBits n s.lastTs
    s.stage = .awaitBitFall .subsequentBit ∧
      (((60 ≤ delta ∧ delta ≤ 1060 ∨ 1180 ≤ delta ∧ delta ≤ 2180) ∧ t.stage = .awaitBitRise) ∨
        (¬(60 ≤ delta ∧ delta ≤ 1060) ∧ ¬(1180 ≤ delta ∧ delta ≤ 2180) ∧ t.stage = .awaitLeadFall)) := by
  obtain ⟨⟨-, hstage, -⟩, hcase⟩ := execEdgeBitfallNext_next (lvl := lvl) h
  rw [edgeDelta_eq] at hcase
  refine ⟨hstage, ?_⟩
  have hclass := classify_cases (counterDiff s.params.clockBits n s.lastTs)
  obtain ⟨hlo, hhi, hc⟩ | ⟨hlo, hhi, hc⟩ | ⟨h0, h1, hc⟩ := hclass <;> rw [hc] at hcase
  · obtain ⟨b, -, rfl⟩ | ⟨⟨⟩, -⟩ := hcase
    exact .inl ⟨.inl ⟨hlo, hhi⟩, rfl⟩
  · obtain ⟨b, -, rfl⟩ | ⟨⟨⟩, -⟩ := hcase
    exact .inl ⟨.inr ⟨hlo, hhi⟩, rfl⟩
  · obtain ⟨b, ⟨⟩, -⟩ | ⟨-, rfl⟩ := hcase
    exact .inr ⟨h0, h1, rfl⟩

/-- Settles O53: row by row, from what each operation can do; the rest write no stage. -/
theorem stageMovesOnlyByTheTable : Obligations.StageMovesOnlyByTheTable := by
  intro i s t h inWindow
  cases i with
  | edgeLeadfall n lvl =>
    obtain ⟨⟨-, hstage, -⟩, ⟨hlvl, rfl⟩ | ⟨hlvl, rfl⟩⟩ := execEdgeLeadfall_next h
    · exact ⟨hstage, .inr ⟨hlvl, rfl⟩⟩
    · exact ⟨hstage, .inl ⟨hlvl, rfl⟩⟩
  | edgeLeadrise n lvl =>
    obtain ⟨hstage, -, hcase⟩ := stage_of_checked (lo := 8500) (execEdgeLeadrise_next (lvl := lvl) h)
    exact ⟨hstage, hcase⟩
  | edgeBitfallFirst n lvl =>
    obtain ⟨hstage, -, hcase⟩ := stage_of_checked (lo := 4000) (execEdgeBitfallFirst_next (lvl := lvl) h)
    exact ⟨hstage, hcase⟩
  | edgeBitriseMark n lvl => exact stage_of_checked (lo := 60) (execEdgeBitriseMark_next (lvl := lvl) h)
  | edgeBitfallNext n lvl => exact stage_of_edgeBitfallNext h
  | edgeBitriseTerm n lvl =>
    obtain ⟨⟨-, hstage, hptr⟩, rfl⟩ := execEdgeBitriseTerm_next (lvl := lvl) h
    exact ⟨hstage, hptr, rfl⟩
  | wdtExpire n =>
    obtain ⟨-, -, ⟨-, rfl⟩ | ⟨hidle, rfl⟩⟩ := execWdtExpire_next h
    · exact enqueue_stage _ _
    · exact hidle
  | reset =>
    obtain ⟨-, rfl⟩ | ⟨-, rfl⟩ := execReset_next h
    · rfl
    · rfl
  | startReceive =>
    obtain ⟨hinput, rfl⟩ | ⟨hinput, rfl⟩ := execStartReceive_next h
    · simp [hinput]
    · simp [hinput]
  | stopReceive => exact execStopReceive_next h ▸ rfl
  | send | txToggle | txRelease =>
    obtain ⟨⟨hstage, -⟩, -⟩ := exec_keeps_receiver h rfl
    exact hstage
  | dqRunValidate =>
    obtain ⟨o, rest, rfl⟩ := exec_dqRun h (.inl rfl)
    rfl
  | dqRunDiag =>
    obtain ⟨o, rest, rfl⟩ := exec_dqRun h (.inr rfl)
    rfl
  | bitsToInt | intToBits | validateFrame | txSchedule | within => exact returned_next h ▸ rfl
  | frame => exact execFrame_next h ▸ rfl

/-! ## Where an operation does not run -/

/-- Settles O13: the guard of each meaning is its selection. -/
theorem edgeOperationsRunOnlyWhenSelected : Obligations.EdgeOperationsRunOnlyWhenSelected := by
  intro t lvl s
  have guard {st : Stage} (h : ¬Selected st s) : ¬edgeSelects st false s = true := mt (edgeSelects_iff st s).1 h
  exact ⟨fun h => if_neg (guard h), fun h => if_neg (guard h), fun h => if_neg (guard h), fun h => if_neg (guard h),
    fun h => if_neg (guard h), fun h => if_neg (mt (edgeSelects_term_iff s).1 h)⟩

theorem exec_dqRun_empty {s : State} (hq : s.dq = []) :
    exec .dqRunValidate s = .fault .queueEmpty ∧ exec .dqRunDiag s = .fault .queueEmpty := by
  simp [exec, execDqRunValidate, execDqRunDiag, hq]

theorem exec_dqRunDiag_other {f : Frame} {rest : List WorkItem} {s : State} (hq : s.dq = .validate f :: rest) :
    exec .dqRunDiag s = .fault .queueHeadOther := by
  simp [exec, execDqRunDiag, hq]

theorem exec_dqRunValidate_other {kind : DiagKind} {rest : List WorkItem} {s : State} (hq : s.dq = .diag kind :: rest) :
    exec .dqRunValidate s = .fault .queueHeadOther := by
  simp [exec, execDqRunValidate, hq]

/-- Settles O21: the head of the queue decides. -/
theorem queueRunIsStuckWithoutItsItem : Obligations.QueueRunIsStuckWithoutItsItem :=
  fun _ => ⟨exec_dqRun_empty, fun _ _ => exec_dqRunDiag_other, fun _ _ => exec_dqRunValidate_other⟩

/-! ## Where a step runs no operation -/

theorem takeItem_back {t : Nat} {s : State} (rest : List Item) (h : t < s.tau) :
    takeItem (some t) rest s = .error .timeRunsBack :=
  if_pos h

theorem takeItem_expiryOverdue {t : Nat} {s : State} (rest : List Item) (hle : s.tau ≤ t) (hpend : s.wdtPending = true)
    (h : s.wdtArmedAt + 100000 + s.params.wdtLatencyMax < t) : takeItem (some t) rest s = .error .expiryOverdue := by
  have hmissed : expiryMissed t s = true := by
    rw [← Bool.not_eq_false, expiryMissed_eq_false]
    exact fun hin => absurd (hin hpend) (by omega)
  rw [takeItem, if_neg (by omega), if_pos hmissed]

theorem takeItem_toggleOverdue {t : Nat} {s : State} {k : Fin 67} (rest : List Item) (hle : s.tau ≤ t)
    (hexpiry : s.wdtPending = true → t ≤ s.wdtArmedAt + 100000 + s.params.wdtLatencyMax) (hbusy : s.txBusy = true)
    (hk : s.txIdx = k.val) (h : s.txStartedAt + s.txOff[k] + s.params.txLatencyMax < t) :
    takeItem (some t) rest s = .error .toggleOverdue := by
  have hmissed : toggleMissed t s = true := by
    rw [← Bool.not_eq_false, toggleMissed_eq_false]
    exact fun hin => absurd (hin k hbusy hk) (by omega)
  rw [takeItem, if_neg (by omega), if_neg (by simp [(expiryMissed_eq_false t s).2 hexpiry]), if_pos hmissed]

/-- A step whose item cannot be taken stops with the reason, for an event and for a word. -/
theorem step_of_not_taken {t : Nat} {s : State} {f : Fault} (hhead : HeadAt t s)
    (h : ∀ rest, takeItem (some t) rest s = .error f) : step s = .fault f := by
  obtain ⟨e, rest, hscript, ht⟩ | ⟨fmt, bytes, rest, i, tail, hscript, hdecode, ht⟩ := hhead
  · simp only [step, fetch, hscript, ht, h]
  · simp only [step, fetch, hscript, hdecode, ht, h]

theorem step_idle {s : State} (h : s.script = []) : step s = .next s := by
  simp only [step, fetch, h]

theorem step_undecodable {s : State} {fmt : Format} {bytes : List Byte} {rest : List Item} {err : DecodeError}
    (hscript : s.script = .word fmt bytes :: rest) (h : decode fmt bytes = .error err) :
    step s = .refused (.undecodable err) := by
  simp only [step, fetch, hscript, h]

theorem step_run_empty {s : State} {rest : List Item} (hscript : s.script = .event .run :: rest) (hq : s.dq = []) :
    step s = .fault .queueEmpty := by
  simp only [step, fetch, hscript, Event.time, takeItem_none, selectEvent, dispatchKey, hq]

/-- Settles O43: the tests of `takeItem` in their order, then the decoder and the empty queue. -/
theorem stepWithoutAnOperation : Obligations.StepWithoutAnOperation := by
  refine fun s => ⟨step_idle, fun t hhead => ⟨fun hback => ?_, fun hle hpend hlate => ?_, ?_⟩,
    fun fmt bytes rest err => step_undecodable, fun rest => step_run_empty⟩
  · exact step_of_not_taken hhead fun rest => takeItem_back rest hback
  · exact step_of_not_taken hhead fun rest => takeItem_expiryOverdue rest hle hpend hlate
  · exact fun k hle hexpiry hbusy hk hlate =>
      step_of_not_taken hhead fun rest => takeItem_toggleOverdue rest hle hexpiry hbusy hk hlate

/-! ## RESET and the reset state -/

/-- Settles O1: a driven line adds its release, neither a callback nor a diagnostic; an idle one adds nothing. -/
theorem resetWritesItsListing : Obligations.ResetWritesItsListing := by
  intro s
  cases hp : s.pinMode with
  | input =>
    exact ⟨_, execReset_input hp, rfl, rfl, clearFrame_getElem, rfl, rfl, rfl, rfl, rfl, rfl, rfl, rfl, [],
      (List.append_nil _).symm, nofun⟩
  | output =>
    refine ⟨_, execReset_output hp, rfl, rfl, clearFrame_getElem, rfl, rfl, rfl, rfl, rfl, rfl, rfl, rfl,
      [⟨s.tau, .txLine .released⟩], rfl, fun e he => ?_⟩
    obtain rfl := List.mem_singleton.1 he
    exact ⟨nofun, nofun⟩

/-- Settles O3: by evaluation; every slot of the clear frame is `false`. -/
theorem resetStateHoldsTheResetValues : Obligations.ResetStateHoldsTheResetValues :=
  ⟨rfl, rfl, clearFrame_getElem, rfl, rfl, rfl, rfl, rfl, rfl, rfl, rfl⟩

end Sys2Proof.Proofs
end
